-- ==== Sys2Proof/Word.lean ====
section
/-! DEFINITION. The two data widths of the CPU08 (00_scope.md R5): bytes, and 16-bit words used for
addresses, H:X, SP and PC. All their arithmetic is modulo 2^8 and 2^16 (R7). -/

namespace Sys2Proof

/-- An 8-bit quantity, `u8` of 00_scope.md R7: A, H, X and one memory cell. -/
abbrev Byte := BitVec 8

/-- A 16-bit quantity, `u16` of 00_scope.md R7: an address, H:X, SP, PC. -/
abbrev Word := BitVec 16

end Sys2Proof
end

