-- ==== Sys2Proof/Syntax.lean ====
section
/-! DEFINITION. The instructions of the CPU08. One constructor for each of the 114 mnemonics of
spec/opcode_table.json; the table's 290 rows are the operand forms of these constructors (log 31).
Operands are the instruction's operand bytes, 16-bit operands joined (30_encoding.md R81, R84). -/

namespace Sys2Proof

/-- A memory operand, by addressing mode (30_encoding.md R88 to R94). -/
inductive MemRef where
  /-- DIR: address `$00:dd` (R88). -/
  | dir (dd : Byte)
  /-- EXT: address `hh:ll` (R89). -/
  | ext (hhll : Word)
  /-- IX2: address `H:X + ee:ff` (R92). -/
  | ix2 (eeff : Word)
  /-- IX1: address `H:X + ff`, the offset unsigned (R91). -/
  | ix1 (ff : Byte)
  /-- IX: address `H:X` (R90). -/
  | ix
  /-- SP1: address `SP + ff`, the offset unsigned (R93). -/
  | sp1 (ff : Byte)
  /-- SP2: address `SP + ee:ff` (R94). -/
  | sp2 (eeff : Word)
  deriving DecidableEq, Repr

/-- The 8-bit source operand `m` of 40_load_store_move.md R118: immediate, or a byte of memory. -/
inductive Src where
  /-- IMM: the byte `ii` itself (30_encoding.md R86). -/
  | imm (ii : Byte)
  /-- The byte at a memory operand. -/
  | mem (m : MemRef)
  deriving DecidableEq, Repr

/-- The 16-bit source operand of LDHX and CPHX (40_load_store_move.md R123, 42_arithmetic.md R173). -/
inductive WideSrc where
  /-- IMM16: the value `ii:jj` (30_encoding.md R87). -/
  | imm16 (iijj : Word)
  /-- DIR: the two bytes at `$00:dd` and the address after it. -/
  | dir (dd : Byte)
  deriving DecidableEq, Repr

/-- The memory operand of CBEQ (45_branch.md R263). -/
inductive CbeqRef where
  /-- DIR_REL. -/
  | dir (dd : Byte)
  /-- IX1+_REL: `H:X + ff`, and H:X is incremented afterwards (30_encoding.md R96). -/
  | ix1Inc (ff : Byte)
  /-- IX+_REL: `H:X`, and H:X is incremented afterwards. -/
  | ixInc
  /-- SP1_REL. -/
  | sp1 (ff : Byte)
  deriving DecidableEq, Repr

/-- Source and destination of MOV (30_encoding.md R96, 40_load_store_move.md R125). -/
inductive MovForm where
  /-- DD: `$00:src` to `$00:dst`. -/
  | dd (src dst : Byte)
  /-- DIX+: `$00:src` to `H:X`, then H:X is incremented. -/
  | dixInc (src : Byte)
  /-- IMD: the byte `ii` to `$00:dst`. -/
  | imd (ii dst : Byte)
  /-- IX+D: `H:X` to `$00:dst`, then H:X is incremented. -/
  | ixIncD (dst : Byte)
  deriving DecidableEq, Repr

/-- The instructions, one constructor a mnemonic. `rr` is always the relative-offset byte, the last of
the instruction; `n` is the bit number that bits 3 to 1 of the opcode hold (30_encoding.md R95, R97). -/
inductive Instr where
  -- bit instructions, 44_bit_ccr.md R220 to R223
  | brset (n : Fin 8) (dd rr : Byte)
  | brclr (n : Fin 8) (dd rr : Byte)
  | bset (n : Fin 8) (dd : Byte)
  | bclr (n : Fin 8) (dd : Byte)
  -- relative branches, 45_branch.md R241 to R256
  | bra (rr : Byte)
  | brn (rr : Byte)
  | bhi (rr : Byte)
  | bls (rr : Byte)
  | bcc (rr : Byte)
  | bcs (rr : Byte)
  | bne (rr : Byte)
  | beq (rr : Byte)
  | bhcc (rr : Byte)
  | bhcs (rr : Byte)
  | bpl (rr : Byte)
  | bmi (rr : Byte)
  | bmc (rr : Byte)
  | bms (rr : Byte)
  | bil (rr : Byte)
  | bih (rr : Byte)
  -- the read-modify-write group on memory, on A and on X
  | neg (m : MemRef)
  | cbeq (m : CbeqRef) (rr : Byte)
  | com (m : MemRef)
  | lsr (m : MemRef)
  | sthx (dd : Byte)
  | ror (m : MemRef)
  | asr (m : MemRef)
  | lsl (m : MemRef)
  | rol (m : MemRef)
  | dec (m : MemRef)
  | dbnz (m : MemRef) (rr : Byte)
  | inc (m : MemRef)
  | tst (m : MemRef)
  | clr (m : MemRef)
  | nega
  | cbeqa (ii rr : Byte)
  | mul
  | coma
  | lsra
  | ldhx (w : WideSrc)
  | rora
  | asra
  | lsla
  | rola
  | deca
  | dbnza (rr : Byte)
  | inca
  | tsta
  | mov (f : MovForm)
  | clra
  | negx
  | cbeqx (ii rr : Byte)
  | div
  | comx
  | lsrx
  | rorx
  | asrx
  | lslx
  | rolx
  | decx
  | dbnzx (rr : Byte)
  | incx
  | tstx
  | clrx
  | nsa
  | cphx (w : WideSrc)
  | daa
  -- control, stack and transfer
  | rti
  | rts
  | swi
  | tap
  | tpa
  | pula
  | psha
  | pulx
  | pshx
  | pulh
  | pshh
  | clrh
  | stop
  | wait
  | bge (rr : Byte)
  | blt (rr : Byte)
  | bgt (rr : Byte)
  | ble (rr : Byte)
  | txs
  | tsx
  | tax
  | clc
  | sec
  | cli
  | sei
  | rsp
  | nop
  | txa
  -- the register-memory group
  | sub (o : Src)
  | cmp (o : Src)
  | sbc (o : Src)
  | cpx (o : Src)
  | and (o : Src)
  | bit (o : Src)
  | lda (o : Src)
  | ais (ii : Byte)
  | eor (o : Src)
  | adc (o : Src)
  | ora (o : Src)
  | add (o : Src)
  | bsr (rr : Byte)
  | ldx (o : Src)
  | aix (ii : Byte)
  | sta (m : MemRef)
  | jmp (m : MemRef)
  | jsr (m : MemRef)
  | stx (m : MemRef)
  deriving DecidableEq, Repr

/-! The second mnemonics of 30_encoding.md R103: another name, the same instruction. -/

abbrev Instr.bhs (rr : Byte) : Instr := .bcc rr
abbrev Instr.blo (rr : Byte) : Instr := .bcs rr
abbrev Instr.asl (m : MemRef) : Instr := .lsl m
abbrev Instr.asla : Instr := .lsla
abbrev Instr.aslx : Instr := .lslx
abbrev Instr.dex : Instr := .decx
abbrev Instr.inx : Instr := .incx

end Sys2Proof
end

