-- ==== Sys2Proof/WellFormed.lean ====
section
/-! DEFINITION. Which terms of `Instr` have an encoding. Every value of every operand byte is legal
(30_encoding.md R105); what can be wrong is a memory operand in a mode the instruction does not have. -/

namespace Sys2Proof

/-- The modes of the read-modify-write group and of DBNZ: DIR, IX1, IX, SP1. There is no extended, IX2
or SP2 form (30_encoding.md R89, R101). -/
def MemRef.rmwMode : MemRef → Bool
  | .dir _ | .ix1 _ | .ix | .sp1 _ => true
  | .ext _ | .ix2 _ | .sp2 _ => false

/-- The modes of JMP and JSR: DIR, EXT, IX2, IX1, IX. There is no stack-pointer form (R101). -/
def MemRef.jumpMode : MemRef → Bool
  | .dir _ | .ext _ | .ix2 _ | .ix1 _ | .ix => true
  | .sp1 _ | .sp2 _ => false

/-- The instruction has an encoding: its memory operand is in a mode that 30_encoding.md R111 lists. -/
def Instr.wf : Instr → Bool
  | .neg m | .com m | .lsr m | .ror m | .asr m | .lsl m | .rol m | .dec m | .inc m | .tst m | .clr m
  | .dbnz m _ => m.rmwMode
  | .jmp m | .jsr m => m.jumpMode
  | .brset _ _ _ | .brclr _ _ _ | .bset _ _ | .bclr _ _
  | .bra _ | .brn _ | .bhi _ | .bls _ | .bcc _ | .bcs _ | .bne _ | .beq _ | .bhcc _ | .bhcs _
  | .bpl _ | .bmi _ | .bmc _ | .bms _ | .bil _ | .bih _
  | .cbeq _ _ | .sthx _ | .nega | .cbeqa _ _ | .mul | .coma | .lsra | .ldhx _ | .rora | .asra | .lsla
  | .rola | .deca | .dbnza _ | .inca | .tsta | .mov _ | .clra | .negx | .cbeqx _ _ | .div | .comx
  | .lsrx | .rorx | .asrx | .lslx | .rolx | .decx | .dbnzx _ | .incx | .tstx | .clrx | .nsa | .cphx _
  | .daa | .rti | .rts | .swi | .tap | .tpa | .pula | .psha | .pulx | .pshx | .pulh | .pshh | .clrh
  | .stop | .wait | .bge _ | .blt _ | .bgt _ | .ble _ | .txs | .tsx | .tax | .clc | .sec | .cli | .sei
  | .rsp | .nop | .txa | .sub _ | .cmp _ | .sbc _ | .cpx _ | .and _ | .bit _ | .lda _ | .ais _ | .eor _
  | .adc _ | .ora _ | .add _ | .bsr _ | .ldx _ | .aix _ | .sta _ | .stx _ => true

end Sys2Proof
end

