-- ==== Sys2Proof/Decode.lean ====
section
/-! DEFINITION. The decoder and the encoder (30_encoding.md). The two opcode pages are written column by
column as R98 and R99 print them; one reader (`readInstr`) decodes both a list of bytes and the machine's
memory. After the decoder, the encoder and the instruction lengths, from R81, R97, R101 and R111. -/

namespace Sys2Proof

/-! ## Byte order of 16-bit operands (20_memory.md R55, R56) -/

/-- The more significant byte of a word. -/
def hiByte (w : Word) : Byte := w.extractLsb' 8 8

/-- The less significant byte of a word. -/
def loByte (w : Word) : Byte := w.extractLsb' 0 8

/-- `hi:lo`, the word whose more significant byte is `hi`. -/
def wordOf (hi lo : Byte) : Word := hi ++ lo

/-! ## What follows the opcode byte -/

/-- The operand bytes an opcode takes and the instruction they make (R81). -/
inductive Form where
  /-- No operand byte. -/
  | inh (i : Instr)
  /-- One operand byte. -/
  | one (mk : Byte → Instr)
  /-- Two operand bytes that stand for two things. -/
  | two (mk : Byte → Byte → Instr)
  /-- Two operand bytes that form one 16-bit value, the high byte first (R56). -/
  | wide (mk : Word → Instr)

/-! ## Page 1 (R98), one column of the map each -/

/-- Column 0x: BRSET n at `$00 + 2n`, BRCLR n at `$01 + 2n` (R97). -/
def column0 : List (Option Form) :=
  [some (.two (.brset 0)), some (.two (.brclr 0)), some (.two (.brset 1)), some (.two (.brclr 1)),
   some (.two (.brset 2)), some (.two (.brclr 2)), some (.two (.brset 3)), some (.two (.brclr 3)),
   some (.two (.brset 4)), some (.two (.brclr 4)), some (.two (.brset 5)), some (.two (.brclr 5)),
   some (.two (.brset 6)), some (.two (.brclr 6)), some (.two (.brset 7)), some (.two (.brclr 7))]

/-- Column 1x: BSET n at `$10 + 2n`, BCLR n at `$11 + 2n` (R97). -/
def column1 : List (Option Form) :=
  [some (.one (.bset 0)), some (.one (.bclr 0)), some (.one (.bset 1)), some (.one (.bclr 1)),
   some (.one (.bset 2)), some (.one (.bclr 2)), some (.one (.bset 3)), some (.one (.bclr 3)),
   some (.one (.bset 4)), some (.one (.bclr 4)), some (.one (.bset 5)), some (.one (.bclr 5)),
   some (.one (.bset 6)), some (.one (.bclr 6)), some (.one (.bset 7)), some (.one (.bclr 7))]

/-- Column 2x: the relative branches. -/
def column2 : List (Option Form) :=
  [some (.one .bra), some (.one .brn), some (.one .bhi), some (.one .bls),
   some (.one .bcc), some (.one .bcs), some (.one .bne), some (.one .beq),
   some (.one .bhcc), some (.one .bhcs), some (.one .bpl), some (.one .bmi),
   some (.one .bmc), some (.one .bms), some (.one .bil), some (.one .bih)]

/-- Column 3x: the read-modify-write group, DIR. -/
def column3 : List (Option Form) :=
  [some (.one fun dd => .neg (.dir dd)), some (.two fun dd rr => .cbeq (.dir dd) rr),
   none, some (.one fun dd => .com (.dir dd)),
   some (.one fun dd => .lsr (.dir dd)), some (.one .sthx),
   some (.one fun dd => .ror (.dir dd)), some (.one fun dd => .asr (.dir dd)),
   some (.one fun dd => .lsl (.dir dd)), some (.one fun dd => .rol (.dir dd)),
   some (.one fun dd => .dec (.dir dd)), some (.two fun dd rr => .dbnz (.dir dd) rr),
   some (.one fun dd => .inc (.dir dd)), some (.one fun dd => .tst (.dir dd)),
   none, some (.one fun dd => .clr (.dir dd))]

/-- Column 4x: the group on A. -/
def column4 : List (Option Form) :=
  [some (.inh .nega), some (.two .cbeqa), some (.inh .mul), some (.inh .coma),
   some (.inh .lsra), some (.wide fun v => .ldhx (.imm16 v)), some (.inh .rora), some (.inh .asra),
   some (.inh .lsla), some (.inh .rola), some (.inh .deca), some (.one .dbnza),
   some (.inh .inca), some (.inh .tsta), some (.two fun s d => .mov (.dd s d)), some (.inh .clra)]

/-- Column 5x: the group on X. -/
def column5 : List (Option Form) :=
  [some (.inh .negx), some (.two .cbeqx), some (.inh .div), some (.inh .comx),
   some (.inh .lsrx), some (.one fun dd => .ldhx (.dir dd)), some (.inh .rorx), some (.inh .asrx),
   some (.inh .lslx), some (.inh .rolx), some (.inh .decx), some (.one .dbnzx),
   some (.inh .incx), some (.inh .tstx), some (.one fun dd => .mov (.dixInc dd)), some (.inh .clrx)]

/-- Column 6x: the group, IX1. -/
def column6 : List (Option Form) :=
  [some (.one fun ff => .neg (.ix1 ff)), some (.two fun ff rr => .cbeq (.ix1Inc ff) rr),
   some (.inh .nsa), some (.one fun ff => .com (.ix1 ff)),
   some (.one fun ff => .lsr (.ix1 ff)), some (.wide fun v => .cphx (.imm16 v)),
   some (.one fun ff => .ror (.ix1 ff)), some (.one fun ff => .asr (.ix1 ff)),
   some (.one fun ff => .lsl (.ix1 ff)), some (.one fun ff => .rol (.ix1 ff)),
   some (.one fun ff => .dec (.ix1 ff)), some (.two fun ff rr => .dbnz (.ix1 ff) rr),
   some (.one fun ff => .inc (.ix1 ff)), some (.one fun ff => .tst (.ix1 ff)),
   some (.two fun ii dd => .mov (.imd ii dd)), some (.one fun ff => .clr (.ix1 ff))]

/-- Column 7x: the group, IX. -/
def column7 : List (Option Form) :=
  [some (.inh (.neg .ix)), some (.one fun rr => .cbeq .ixInc rr),
   some (.inh .daa), some (.inh (.com .ix)),
   some (.inh (.lsr .ix)), some (.one fun dd => .cphx (.dir dd)),
   some (.inh (.ror .ix)), some (.inh (.asr .ix)),
   some (.inh (.lsl .ix)), some (.inh (.rol .ix)),
   some (.inh (.dec .ix)), some (.one fun rr => .dbnz .ix rr),
   some (.inh (.inc .ix)), some (.inh (.tst .ix)),
   some (.one fun dd => .mov (.ixIncD dd)), some (.inh (.clr .ix))]

/-- Column 8x: control and stack. -/
def column8 : List (Option Form) :=
  [some (.inh .rti), some (.inh .rts), none, some (.inh .swi),
   some (.inh .tap), some (.inh .tpa), some (.inh .pula), some (.inh .psha),
   some (.inh .pulx), some (.inh .pshx), some (.inh .pulh), some (.inh .pshh),
   some (.inh .clrh), none, some (.inh .stop), some (.inh .wait)]

/-- Column 9x: signed branches, transfers, flags. `$9E` is the pre-byte (R106). -/
def column9 : List (Option Form) :=
  [some (.one .bge), some (.one .blt), some (.one .bgt), some (.one .ble),
   some (.inh .txs), some (.inh .tsx), none, some (.inh .tax),
   some (.inh .clc), some (.inh .sec), some (.inh .cli), some (.inh .sei),
   some (.inh .rsp), some (.inh .nop), none, some (.inh .txa)]

/-- Column Ax: the register-memory group, IMM. -/
def columnA : List (Option Form) :=
  [some (.one fun ii => .sub (.imm ii)), some (.one fun ii => .cmp (.imm ii)),
   some (.one fun ii => .sbc (.imm ii)), some (.one fun ii => .cpx (.imm ii)),
   some (.one fun ii => .and (.imm ii)), some (.one fun ii => .bit (.imm ii)),
   some (.one fun ii => .lda (.imm ii)), some (.one .ais),
   some (.one fun ii => .eor (.imm ii)), some (.one fun ii => .adc (.imm ii)),
   some (.one fun ii => .ora (.imm ii)), some (.one fun ii => .add (.imm ii)),
   none, some (.one .bsr),
   some (.one fun ii => .ldx (.imm ii)), some (.one .aix)]

/-- Column Bx: the register-memory group, DIR. -/
def columnB : List (Option Form) :=
  [some (.one fun dd => .sub (.mem (.dir dd))), some (.one fun dd => .cmp (.mem (.dir dd))),
   some (.one fun dd => .sbc (.mem (.dir dd))), some (.one fun dd => .cpx (.mem (.dir dd))),
   some (.one fun dd => .and (.mem (.dir dd))), some (.one fun dd => .bit (.mem (.dir dd))),
   some (.one fun dd => .lda (.mem (.dir dd))), some (.one fun dd => .sta (.dir dd)),
   some (.one fun dd => .eor (.mem (.dir dd))), some (.one fun dd => .adc (.mem (.dir dd))),
   some (.one fun dd => .ora (.mem (.dir dd))), some (.one fun dd => .add (.mem (.dir dd))),
   some (.one fun dd => .jmp (.dir dd)), some (.one fun dd => .jsr (.dir dd)),
   some (.one fun dd => .ldx (.mem (.dir dd))), some (.one fun dd => .stx (.dir dd))]

/-- Column Cx: the register-memory group, EXT. -/
def columnC : List (Option Form) :=
  [some (.wide fun w => .sub (.mem (.ext w))), some (.wide fun w => .cmp (.mem (.ext w))),
   some (.wide fun w => .sbc (.mem (.ext w))), some (.wide fun w => .cpx (.mem (.ext w))),
   some (.wide fun w => .and (.mem (.ext w))), some (.wide fun w => .bit (.mem (.ext w))),
   some (.wide fun w => .lda (.mem (.ext w))), some (.wide fun w => .sta (.ext w)),
   some (.wide fun w => .eor (.mem (.ext w))), some (.wide fun w => .adc (.mem (.ext w))),
   some (.wide fun w => .ora (.mem (.ext w))), some (.wide fun w => .add (.mem (.ext w))),
   some (.wide fun w => .jmp (.ext w)), some (.wide fun w => .jsr (.ext w)),
   some (.wide fun w => .ldx (.mem (.ext w))), some (.wide fun w => .stx (.ext w))]

/-- Column Dx: the register-memory group, IX2. -/
def columnD : List (Option Form) :=
  [some (.wide fun w => .sub (.mem (.ix2 w))), some (.wide fun w => .cmp (.mem (.ix2 w))),
   some (.wide fun w => .sbc (.mem (.ix2 w))), some (.wide fun w => .cpx (.mem (.ix2 w))),
   some (.wide fun w => .and (.mem (.ix2 w))), some (.wide fun w => .bit (.mem (.ix2 w))),
   some (.wide fun w => .lda (.mem (.ix2 w))), some (.wide fun w => .sta (.ix2 w)),
   some (.wide fun w => .eor (.mem (.ix2 w))), some (.wide fun w => .adc (.mem (.ix2 w))),
   some (.wide fun w => .ora (.mem (.ix2 w))), some (.wide fun w => .add (.mem (.ix2 w))),
   some (.wide fun w => .jmp (.ix2 w)), some (.wide fun w => .jsr (.ix2 w)),
   some (.wide fun w => .ldx (.mem (.ix2 w))), some (.wide fun w => .stx (.ix2 w))]

/-- Column Ex: the register-memory group, IX1. -/
def columnE : List (Option Form) :=
  [some (.one fun ff => .sub (.mem (.ix1 ff))), some (.one fun ff => .cmp (.mem (.ix1 ff))),
   some (.one fun ff => .sbc (.mem (.ix1 ff))), some (.one fun ff => .cpx (.mem (.ix1 ff))),
   some (.one fun ff => .and (.mem (.ix1 ff))), some (.one fun ff => .bit (.mem (.ix1 ff))),
   some (.one fun ff => .lda (.mem (.ix1 ff))), some (.one fun ff => .sta (.ix1 ff)),
   some (.one fun ff => .eor (.mem (.ix1 ff))), some (.one fun ff => .adc (.mem (.ix1 ff))),
   some (.one fun ff => .ora (.mem (.ix1 ff))), some (.one fun ff => .add (.mem (.ix1 ff))),
   some (.one fun ff => .jmp (.ix1 ff)), some (.one fun ff => .jsr (.ix1 ff)),
   some (.one fun ff => .ldx (.mem (.ix1 ff))), some (.one fun ff => .stx (.ix1 ff))]

/-- Column Fx: the register-memory group, IX. -/
def columnF : List (Option Form) :=
  [some (.inh (.sub (.mem .ix))), some (.inh (.cmp (.mem .ix))),
   some (.inh (.sbc (.mem .ix))), some (.inh (.cpx (.mem .ix))),
   some (.inh (.and (.mem .ix))), some (.inh (.bit (.mem .ix))),
   some (.inh (.lda (.mem .ix))), some (.inh (.sta .ix)),
   some (.inh (.eor (.mem .ix))), some (.inh (.adc (.mem .ix))),
   some (.inh (.ora (.mem .ix))), some (.inh (.add (.mem .ix))),
   some (.inh (.jmp .ix)), some (.inh (.jsr .ix)),
   some (.inh (.ldx (.mem .ix))), some (.inh (.stx .ix))]

/-- The page 1 map: sixteen columns by the high half of the opcode byte. -/
def page1Columns : List (List (Option Form)) :=
  [column0, column1, column2, column3, column4, column5, column6, column7,
   column8, column9, columnA, columnB, columnC, columnD, columnE, columnF]

/-! ## Page 2 (R99), the three columns that hold assigned opcodes -/

/-- `9E 6x`: the read-modify-write group, SP1. -/
def spColumn6 : List (Option Form) :=
  [some (.one fun ff => .neg (.sp1 ff)), some (.two fun ff rr => .cbeq (.sp1 ff) rr),
   none, some (.one fun ff => .com (.sp1 ff)),
   some (.one fun ff => .lsr (.sp1 ff)), none,
   some (.one fun ff => .ror (.sp1 ff)), some (.one fun ff => .asr (.sp1 ff)),
   some (.one fun ff => .lsl (.sp1 ff)), some (.one fun ff => .rol (.sp1 ff)),
   some (.one fun ff => .dec (.sp1 ff)), some (.two fun ff rr => .dbnz (.sp1 ff) rr),
   some (.one fun ff => .inc (.sp1 ff)), some (.one fun ff => .tst (.sp1 ff)),
   none, some (.one fun ff => .clr (.sp1 ff))]

/-- `9E Dx`: the register-memory group, SP2. -/
def spColumnD : List (Option Form) :=
  [some (.wide fun w => .sub (.mem (.sp2 w))), some (.wide fun w => .cmp (.mem (.sp2 w))),
   some (.wide fun w => .sbc (.mem (.sp2 w))), some (.wide fun w => .cpx (.mem (.sp2 w))),
   some (.wide fun w => .and (.mem (.sp2 w))), some (.wide fun w => .bit (.mem (.sp2 w))),
   some (.wide fun w => .lda (.mem (.sp2 w))), some (.wide fun w => .sta (.sp2 w)),
   some (.wide fun w => .eor (.mem (.sp2 w))), some (.wide fun w => .adc (.mem (.sp2 w))),
   some (.wide fun w => .ora (.mem (.sp2 w))), some (.wide fun w => .add (.mem (.sp2 w))),
   none, none,
   some (.wide fun w => .ldx (.mem (.sp2 w))), some (.wide fun w => .stx (.sp2 w))]

/-- `9E Ex`: the register-memory group, SP1. -/
def spColumnE : List (Option Form) :=
  [some (.one fun ff => .sub (.mem (.sp1 ff))), some (.one fun ff => .cmp (.mem (.sp1 ff))),
   some (.one fun ff => .sbc (.mem (.sp1 ff))), some (.one fun ff => .cpx (.mem (.sp1 ff))),
   some (.one fun ff => .and (.mem (.sp1 ff))), some (.one fun ff => .bit (.mem (.sp1 ff))),
   some (.one fun ff => .lda (.mem (.sp1 ff))), some (.one fun ff => .sta (.sp1 ff)),
   some (.one fun ff => .eor (.mem (.sp1 ff))), some (.one fun ff => .adc (.mem (.sp1 ff))),
   some (.one fun ff => .ora (.mem (.sp1 ff))), some (.one fun ff => .add (.mem (.sp1 ff))),
   none, none,
   some (.one fun ff => .ldx (.mem (.sp1 ff))), some (.one fun ff => .stx (.sp1 ff))]

/-- The cell of a map at an opcode byte: column by bits 7 to 4, row by bits 3 to 0 (R83). -/
def cellAt (columns : List (List (Option Form))) (op : Byte) : Option Form :=
  match columns[op.toNat / 16]? with
  | some column => (column[op.toNat % 16]?).join
  | none => none

/-- The page 1 opcode map (R98); `none` is an unassigned opcode (R104) or the pre-byte. -/
def page1 (op : Byte) : Option Form := cellAt page1Columns op

/-- The page 2 opcode map (R99), by the byte after the pre-byte. -/
def page2 (op : Byte) : Option Form :=
  cellAt [[], [], [], [], [], [], spColumn6, [], [], [], [], [], [], spColumnD, spColumnE, []] op

/-- The pre-byte that selects page 2 (R106). -/
def preByte : Byte := 0x9E

/-! ## The reader -/

/-- What stands in the instruction stream. -/
inductive Decoded where
  /-- An instruction and its length in bytes. -/
  | instr (i : Instr) (len : Nat)
  /-- An unassigned opcode: its byte, and the second byte after a pre-byte (R104). -/
  | illegal (byte0 : Byte) (byte1 : Option Byte)
  deriving DecidableEq, Repr

/-- Reads an opcode's operand bytes, which start `at_` bytes into the instruction, in ascending order. -/
def Form.read {ε : Type} (rd : Nat → Except ε Byte) (at_ : Nat) : Form → Except ε Decoded
  | .inh i => .ok (.instr i at_)
  | .one mk => do
    let b ← rd at_
    .ok (.instr (mk b) (at_ + 1))
  | .two mk => do
    let b ← rd at_
    let c ← rd (at_ + 1)
    .ok (.instr (mk b c) (at_ + 2))
  | .wide mk => do
    let hi ← rd at_
    let lo ← rd (at_ + 1)
    .ok (.instr (mk (wordOf hi lo)) (at_ + 2))

/-- Reads one instruction through `rd`, which gives byte `k` of the stream: byte 0; after the pre-byte
also byte 1; then exactly the operand bytes of the form found (R82; 20_memory.md R71). -/
def readInstr {ε : Type} (rd : Nat → Except ε Byte) : Except ε Decoded := do
  let b0 ← rd 0
  if b0 = preByte then
    let b1 ← rd 1
    match page2 b1 with
    | some f => f.read rd 2
    | none => .ok (.illegal b0 (some b1))
  else
    match page1 b0 with
    | some f => f.read rd 1
    | none => .ok (.illegal b0 none)

/-- Why a list of bytes is not the start of an instruction. -/
inductive DecodeError where
  /-- The opcode is unassigned (R104). -/
  | illegalOpcode (byte0 : Byte) (byte1 : Option Byte)
  /-- The list ends inside the instruction. -/
  | truncated
  deriving DecidableEq, Repr

/-- Byte `k` of a list, for `readInstr`. -/
def byteOf (bytes : List Byte) (k : Nat) : Except DecodeError Byte :=
  match bytes[k]? with
  | some b => .ok b
  | none => .error .truncated

/-- Decodes the instruction at the head of a list of bytes and gives the bytes after it. Total: every
list gives an instruction or a named error. -/
def decode (bytes : List Byte) : Except DecodeError (Instr × List Byte) :=
  match readInstr (byteOf bytes) with
  | .ok (.instr i len) => .ok (i, bytes.drop len)
  | .ok (.illegal byte0 byte1) => .error (.illegalOpcode byte0 byte1)
  | .error e => .error e

/-! ## The words of spec/opcode_table.json -/

/-- The bytes of a table word, first byte first, padded with zero bytes to the longest instruction. The
table numbers a one-byte opcode with byte 0 in bits 7 to 0; it writes a page 2 row as the number `$9Exx`,
the pre-byte above the opcode byte (R98's `match`). A 16-bit word with `$9E` in bits 15 to 8 is such a row
and is laid out with the pre-byte first; every other word has its first byte in bits 7 to 0 (log 30). -/
def tableBytes (nbits w : Nat) : List Byte :=
  let byte (k : Nat) : Byte := BitVec.ofNat 8 (w / 2 ^ (8 * k))
  if nbits = 16 ∧ byte 1 = preByte then [byte 1, byte 0, 0, 0]
  else
    [byte 0, byte 1, byte 2, byte 3].mapIdx fun k b => if 8 * k < nbits then b else 0

/-- The instruction the decoder reads from a word of the opcode table. -/
def decodeTableWord (nbits w : Nat) : Option Instr :=
  match decode (tableBytes nbits w) with
  | .ok (i, _) => some i
  | .error _ => none

/-! ## The encoder -/

/-- The opcode byte in column `hi`, row `lo` of a map. -/
def opcode (hi lo : Nat) : Byte := BitVec.ofNat 8 (16 * hi + lo)

/-- Row `lo` of the read-modify-write group in the mode of `m` (R83, R101), followed by `tail`; no bytes
in a mode the group does not have. -/
def encodeRmw (lo : Nat) (m : MemRef) (tail : List Byte) : List Byte :=
  match m with
  | .dir dd => opcode 3 lo :: dd :: tail
  | .ix1 ff => opcode 6 lo :: ff :: tail
  | .ix => opcode 7 lo :: tail
  | .sp1 ff => preByte :: opcode 6 lo :: ff :: tail
  | .ext _ | .ix2 _ | .sp2 _ => []

/-- Row `lo` of the register-memory group in the mode of `m` (R83, R101). -/
def encodeMem (lo : Nat) (m : MemRef) : List Byte :=
  match m with
  | .dir dd => [opcode 11 lo, dd]
  | .ext w => [opcode 12 lo, hiByte w, loByte w]
  | .ix2 w => [opcode 13 lo, hiByte w, loByte w]
  | .ix1 ff => [opcode 14 lo, ff]
  | .ix => [opcode 15 lo]
  | .sp1 ff => [preByte, opcode 14 lo, ff]
  | .sp2 w => [preByte, opcode 13 lo, hiByte w, loByte w]

/-- Row `lo` of the register-memory group with an 8-bit source operand. -/
def encodeSrc (lo : Nat) (o : Src) : List Byte :=
  match o with
  | .imm ii => [opcode 10 lo, ii]
  | .mem m => encodeMem lo m

/-- Row `lo` of JMP or JSR, which have no stack-pointer form (R101). -/
def encodeJump (lo : Nat) (m : MemRef) : List Byte :=
  if m.jumpMode then encodeMem lo m else []

/-- The bytes of a well-formed instruction, first byte first (R80, R81, R111); no bytes for a term that
is not well formed. -/
def encode : Instr → List Byte
  | .brset n dd rr => [opcode 0 (2 * n.val), dd, rr]
  | .brclr n dd rr => [opcode 0 (2 * n.val + 1), dd, rr]
  | .bset n dd => [opcode 1 (2 * n.val), dd]
  | .bclr n dd => [opcode 1 (2 * n.val + 1), dd]
  | .bra rr => [0x20, rr]
  | .brn rr => [0x21, rr]
  | .bhi rr => [0x22, rr]
  | .bls rr => [0x23, rr]
  | .bcc rr => [0x24, rr]
  | .bcs rr => [0x25, rr]
  | .bne rr => [0x26, rr]
  | .beq rr => [0x27, rr]
  | .bhcc rr => [0x28, rr]
  | .bhcs rr => [0x29, rr]
  | .bpl rr => [0x2A, rr]
  | .bmi rr => [0x2B, rr]
  | .bmc rr => [0x2C, rr]
  | .bms rr => [0x2D, rr]
  | .bil rr => [0x2E, rr]
  | .bih rr => [0x2F, rr]
  | .neg m => encodeRmw 0x0 m []
  | .cbeq (.dir dd) rr => [0x31, dd, rr]
  | .cbeq (.ix1Inc ff) rr => [0x61, ff, rr]
  | .cbeq .ixInc rr => [0x71, rr]
  | .cbeq (.sp1 ff) rr => [0x9E, 0x61, ff, rr]
  | .com m => encodeRmw 0x3 m []
  | .lsr m => encodeRmw 0x4 m []
  | .sthx dd => [0x35, dd]
  | .ror m => encodeRmw 0x6 m []
  | .asr m => encodeRmw 0x7 m []
  | .lsl m => encodeRmw 0x8 m []
  | .rol m => encodeRmw 0x9 m []
  | .dec m => encodeRmw 0xA m []
  | .dbnz m rr => encodeRmw 0xB m [rr]
  | .inc m => encodeRmw 0xC m []
  | .tst m => encodeRmw 0xD m []
  | .clr m => encodeRmw 0xF m []
  | .nega => [0x40]
  | .cbeqa ii rr => [0x41, ii, rr]
  | .mul => [0x42]
  | .coma => [0x43]
  | .lsra => [0x44]
  | .ldhx (.imm16 v) => [0x45, hiByte v, loByte v]
  | .ldhx (.dir dd) => [0x55, dd]
  | .rora => [0x46]
  | .asra => [0x47]
  | .lsla => [0x48]
  | .rola => [0x49]
  | .deca => [0x4A]
  | .dbnza rr => [0x4B, rr]
  | .inca => [0x4C]
  | .tsta => [0x4D]
  | .mov (.dd s d) => [0x4E, s, d]
  | .mov (.dixInc s) => [0x5E, s]
  | .mov (.imd ii d) => [0x6E, ii, d]
  | .mov (.ixIncD d) => [0x7E, d]
  | .clra => [0x4F]
  | .negx => [0x50]
  | .cbeqx ii rr => [0x51, ii, rr]
  | .div => [0x52]
  | .comx => [0x53]
  | .lsrx => [0x54]
  | .rorx => [0x56]
  | .asrx => [0x57]
  | .lslx => [0x58]
  | .rolx => [0x59]
  | .decx => [0x5A]
  | .dbnzx rr => [0x5B, rr]
  | .incx => [0x5C]
  | .tstx => [0x5D]
  | .clrx => [0x5F]
  | .nsa => [0x62]
  | .cphx (.imm16 v) => [0x65, hiByte v, loByte v]
  | .cphx (.dir dd) => [0x75, dd]
  | .daa => [0x72]
  | .rti => [0x80]
  | .rts => [0x81]
  | .swi => [0x83]
  | .tap => [0x84]
  | .tpa => [0x85]
  | .pula => [0x86]
  | .psha => [0x87]
  | .pulx => [0x88]
  | .pshx => [0x89]
  | .pulh => [0x8A]
  | .pshh => [0x8B]
  | .clrh => [0x8C]
  | .stop => [0x8E]
  | .wait => [0x8F]
  | .bge rr => [0x90, rr]
  | .blt rr => [0x91, rr]
  | .bgt rr => [0x92, rr]
  | .ble rr => [0x93, rr]
  | .txs => [0x94]
  | .tsx => [0x95]
  | .tax => [0x97]
  | .clc => [0x98]
  | .sec => [0x99]
  | .cli => [0x9A]
  | .sei => [0x9B]
  | .rsp => [0x9C]
  | .nop => [0x9D]
  | .txa => [0x9F]
  | .sub o => encodeSrc 0x0 o
  | .cmp o => encodeSrc 0x1 o
  | .sbc o => encodeSrc 0x2 o
  | .cpx o => encodeSrc 0x3 o
  | .and o => encodeSrc 0x4 o
  | .bit o => encodeSrc 0x5 o
  | .lda o => encodeSrc 0x6 o
  | .ais ii => [0xA7, ii]
  | .eor o => encodeSrc 0x8 o
  | .adc o => encodeSrc 0x9 o
  | .ora o => encodeSrc 0xA o
  | .add o => encodeSrc 0xB o
  | .bsr rr => [0xAD, rr]
  | .ldx o => encodeSrc 0xE o
  | .aix ii => [0xAF, ii]
  | .sta m => encodeMem 0x7 m
  | .jmp m => encodeJump 0xC m
  | .jsr m => encodeJump 0xD m
  | .stx m => encodeMem 0xF m

/-! ## Lengths (R81) -/

/-- The length of an instruction whose only operand is `m`: pre-byte, opcode byte and operand bytes. -/
def MemRef.length : MemRef → Nat
  | .ix => 1
  | .dir _ | .ix1 _ => 2
  | .ext _ | .ix2 _ | .sp1 _ => 3
  | .sp2 _ => 4

/-- The length of an instruction with an 8-bit source operand. -/
def Src.length : Src → Nat
  | .imm _ => 2
  | .mem m => m.length

/-- The length of LDHX and CPHX by form. -/
def WideSrc.length : WideSrc → Nat
  | .imm16 _ => 3
  | .dir _ => 2

/-- The length of CBEQ by form, its offset byte included. -/
def CbeqRef.length : CbeqRef → Nat
  | .ixInc => 2
  | .dir _ | .ix1Inc _ => 3
  | .sp1 _ => 4

/-- The length of MOV by form. -/
def MovForm.length : MovForm → Nat
  | .dd _ _ | .imd _ _ => 3
  | .dixInc _ | .ixIncD _ => 2

/-- `len` of an instruction, in bytes (R81). -/
def Instr.length : Instr → Nat
  | .brset _ _ _ | .brclr _ _ _ | .cbeqa _ _ | .cbeqx _ _ => 3
  | .bset _ _ | .bclr _ _ | .sthx _ => 2
  | .bra _ | .brn _ | .bhi _ | .bls _ | .bcc _ | .bcs _ | .bne _ | .beq _ | .bhcc _ | .bhcs _
  | .bpl _ | .bmi _ | .bmc _ | .bms _ | .bil _ | .bih _ | .bge _ | .blt _ | .bgt _ | .ble _
  | .bsr _ | .dbnza _ | .dbnzx _ | .ais _ | .aix _ => 2
  | .neg m | .com m | .lsr m | .ror m | .asr m | .lsl m | .rol m | .dec m | .inc m | .tst m | .clr m
  | .sta m | .jmp m | .jsr m | .stx m => m.length
  | .dbnz m _ => m.length + 1
  | .cbeq m _ => m.length
  | .ldhx w | .cphx w => w.length
  | .mov f => f.length
  | .sub o | .cmp o | .sbc o | .cpx o | .and o | .bit o | .lda o | .eor o | .adc o | .ora o | .add o
  | .ldx o => o.length
  | .nega | .mul | .coma | .lsra | .rora | .asra | .lsla | .rola | .deca | .inca | .tsta | .clra
  | .negx | .div | .comx | .lsrx | .rorx | .asrx | .lslx | .rolx | .decx | .incx | .tstx | .clrx
  | .nsa | .daa | .rti | .rts | .swi | .tap | .tpa | .pula | .psha | .pulx | .pshx | .pulh | .pshh
  | .clrh | .stop | .wait | .txs | .tsx | .tax | .clc | .sec | .cli | .sei | .rsp | .nop | .txa => 1

end Sys2Proof
end

