-- ==== Sys2Proof/Config.lean ====
section
/-! DEFINITION. What a platform fixes (the parameters of 00_scope.md R6, as a record that State carries so
that every claim ranges over all their values) and the free values: constants without a body, one for each
value the spec leaves undefined, so that nothing proved rests on what they are. -/

namespace Sys2Proof.Config

/-- What MEMMAP puts at an address (00_scope.md R6; 20_memory.md R63, R65). -/
inductive RegionKind where
  /-- Reads give the byte last written. -/
  | ram
  /-- ROM or FLASH: reads give the byte, writes are ignored. -/
  | rom
  /-- ROM or FLASH whose writes fault (R6; 93_implementation_defined.md U6). -/
  | romFaulting
  /-- I/O registers with the behaviour of device number `id`: `deviceRead`, `deviceAfterRead`,
  `deviceAfterWrite` below (R6; 93_implementation_defined.md U7; log 5). -/
  | device (id : Nat)
  /-- Nothing is there. -/
  | unimplemented
  deriving DecidableEq, Repr

/-- A range of addresses, both ends included. -/
structure Region where
  first : Word
  last : Word
  kind : RegionKind
  deriving DecidableEq, Repr

/-- ILLEGAL_OPCODE (30_encoding.md R104): what an unassigned opcode does. -/
inductive IllegalPolicy where
  /-- The model stops with `IllegalOpcode`; the default. -/
  | fault
  /-- The reset sequence of 70_reset_and_hazards.md R441. -/
  | reset
  deriving DecidableEq, Repr

/-- UNIMPL_ACCESS (20_memory.md R65, 92_eei_decisions.md D7). -/
inductive UnimplPolicy where
  /-- The model stops with `UnimplementedAccess`; the default. -/
  | fault
  /-- A read gives any value, a write is ignored. -/
  | readAnyWriteIgnored
  deriving DecidableEq, Repr

/-- The platform's parameters (00_scope.md R6). No instruction changes them. -/
structure Params where
  /-- MEMMAP; an address that no region covers is RAM, the first region that covers it decides. -/
  memmap : List Region
  /-- VEC_RESET. -/
  vecReset : Word
  /-- VEC_IRQ. -/
  vecIrq : Word
  illegalOpcode : IllegalPolicy
  unimplAccess : UnimplPolicy
  /-- RSP_CLEARS_SPH (41_transfer_stack.md R148). -/
  rspClearsSph : Bool
  /-- RESET_SP. -/
  resetSp : Word
  /-- RESET_H. -/
  resetH : Byte
  deriving DecidableEq, Repr

/-- The defaults of 00_scope.md R6: all RAM, VEC_RESET $FFFE and VEC_IRQ $FFFA (PRESUMED, log 8),
faults, RSP clears the high byte of SP, SP $00FF and H $00 after reset (PRESUMED, log 3). -/
def Params.default : Params where
  memmap := []
  vecReset := 0xFFFE
  vecIrq := 0xFFFA
  illegalOpcode := .fault
  unimplAccess := .fault
  rspClearsSph := true
  resetSp := 0x00FF
  resetH := 0x00

/-- Why a byte is read: as part of an instruction, or as its data. -/
inductive AccessKind where
  | fetch
  | data
  deriving DecidableEq, Repr

/-! ## The behaviour of the devices (00_scope.md R6, 92_eei_decisions.md D1, 93_implementation_defined.md U7)

A parameter of the platform: constants without a body, so that a claim holds of every device. `io` is the state
of the platform's devices as one number, which they may use as they like, so that a read may have side effects
(20_memory.md R63); `time` is `State.draws`, so that a register may change on its own; `id` is the number MEMMAP
gives the device (log 5). -/

/-- The byte a read of an I/O register gives. -/
opaque deviceRead (id io time : Nat) (a : Word) : Byte

/-- The devices' state after a read of an I/O register. -/
opaque deviceAfterRead (id io time : Nat) (a : Word) : Nat

/-- The devices' state after a write of a byte to an I/O register. -/
opaque deviceAfterWrite (id io time : Nat) (a : Word) (v : Byte) : Nat

/-- The devices' state after a reset (70_reset_and_hazards.md R440). -/
opaque deviceAfterReset (io time : Nat) : Nat

/-! ## Free values

Each takes `State.draws`, which differs from step to step, so that two occurrences are unrelated, and the
operands where the spec makes the value a function of them. -/

/-- A after DIV with overflow or divisor zero (93_implementation_defined.md U1, `DIV_OVF(h, a, x)`). -/
opaque divOvfA (draw : Nat) (h a x : Byte) : Byte

/-- H after DIV with overflow or divisor zero (U1). -/
opaque divOvfH (draw : Nat) (h a x : Byte) : Byte

/-- CCR.Z after DIV with overflow or divisor zero (U1). -/
opaque divOvfZ (draw : Nat) (h a x : Byte) : Bool

/-- CCR.V after DAA, on every input (U2). -/
opaque daaV (draw : Nat) : Bool

/-- A after DAA on an input outside its table (U3, `DAA_UNDEF(a, h, c)`). -/
opaque daaUndefA (draw : Nat) (a : Byte) (h c : Bool) : Byte

/-- CCR.C after DAA outside its table (U3). -/
opaque daaUndefC (draw : Nat) (a : Byte) (h c : Bool) : Bool

/-- CCR.N after DAA outside its table (U3). -/
opaque daaUndefN (draw : Nat) (a : Byte) (h c : Bool) : Bool

/-- CCR.Z after DAA outside its table (U3). -/
opaque daaUndefZ (draw : Nat) (a : Byte) (h c : Bool) : Bool

/-- A after a reset taken in a run (U8, 70_reset_and_hazards.md R441). -/
opaque resetA (draw : Nat) : Byte

/-- X after a reset taken in a run (U8). -/
opaque resetX (draw : Nat) : Byte

/-- CCR.V after a reset taken in a run (U8). -/
opaque resetV (draw : Nat) : Bool

/-- CCR.H after a reset taken in a run (U8). -/
opaque resetHalf (draw : Nat) : Bool

/-- CCR.N after a reset taken in a run (U8). -/
opaque resetN (draw : Nat) : Bool

/-- CCR.Z after a reset taken in a run (U8). -/
opaque resetZ (draw : Nat) : Bool

/-- CCR.C after a reset taken in a run (U8). -/
opaque resetC (draw : Nat) : Bool

/-- What a read of an unimplemented address gives under `readAnyWriteIgnored` (20_memory.md R65). -/
opaque floatingByte (draw : Nat) (kind : AccessKind) (a : Word) : Byte

end Sys2Proof.Config
end

