-- ==== Sys2Proof/Machine/State.lean ====
section
/-! DEFINITION. The machine's state as plain data, the reasons a step can stop, and the state after reset. -/

namespace Sys2Proof.Machine

open Sys2Proof

/-- The condition code register (10_state.md R26): its six flags. Bits 6 and 5 hold no state (R27). -/
structure Ccr where
  /-- Bit 7, two's-complement overflow. -/
  v : Bool
  /-- Bit 4, half carry. -/
  h : Bool
  /-- Bit 3, interrupt mask. -/
  i : Bool
  /-- Bit 2, negative. -/
  n : Bool
  /-- Bit 1, zero. -/
  z : Bool
  /-- Bit 0, carry or borrow. -/
  c : Bool
  deriving DecidableEq, Repr

/-- run_state (10_state.md R43). -/
inductive RunState where
  | running
  | waiting
  | stopped
  deriving DecidableEq, Repr

/-- A member of IRQ_SOURCES (60_exceptions.md R405) and whether it requests now (10_state.md R41). -/
structure IrqSource where
  name : String
  vector : Word
  pending : Bool
  deriving DecidableEq, Repr

/-- Memory: the listed bytes, addresses strictly rising, no entry equal to what an unlisted address
reads as (`Memory.wf` in Ops.lean). -/
abbrev Memory := List Host.Cell

/-- Why a step stops with a fault. -/
inductive Fault where
  /-- Raised by the fetch of an unassigned opcode when ILLEGAL_OPCODE is `fault` (30_encoding.md R104).
  Safe: the model stops where the hardware does something no source gives. -/
  | illegalOpcode (pc : Word) (byte0 : Byte) (byte1 : Option Byte)
  /-- Raised by any access to an address MEMMAP marks unimplemented when UNIMPL_ACCESS is `fault`
  (20_memory.md R65). Safe: the model stops where no source says what is read. -/
  | unimplementedAccess (addr : Word)
  /-- Raised by a write to ROM where MEMMAP makes its writes fault (00_scope.md R6; 60_exceptions.md R420).
  Safe: the model stops where the platform says that it faults. -/
  | romWrite (addr : Word)
  deriving DecidableEq, Repr

/-- Why a step has no meaning. -/
inductive Refusal where
  /-- Raised by an arm of `exec` whose instruction has no meaning yet. Safe: nothing is claimed of it. -/
  | notModelled (mnemonic : String)
  deriving DecidableEq, Repr

/-- The machine's state (INVENTORY.md lists each field's rule and reset value). -/
structure State where
  /-- Accumulator A (10_state.md R21). -/
  a : Byte
  /-- X, the low byte of H:X (R22). -/
  x : Byte
  /-- H, the high byte of H:X (R22). -/
  h : Byte
  /-- Stack pointer: the next free byte (R23). -/
  sp : Word
  /-- Program counter: before an instruction, the address of its first byte (R24). -/
  pc : Word
  /-- Condition codes (R26). -/
  ccr : Ccr
  /-- The 64 KiB address space (R37). -/
  mem : Memory
  /-- cli_delay (R42). -/
  cliDelay : Bool
  /-- run_state (R43). -/
  runState : RunState
  /-- Level of the IRQ pin, true = high; an input (R40). -/
  irqPin : Bool
  /-- IRQ_SOURCES in priority order, with their requests; an input (R41). -/
  sources : List IrqSource
  /-- The reset input, true = asserted (70_reset_and_hazards.md R441). -/
  resetLine : Bool
  /-- The state of the devices behind MEMMAP's I/O registers, as one number whose meaning is the devices'
  own (70_reset_and_hazards.md R440; 20_memory.md R63; log 5). -/
  io : Nat
  /-- The platform's parameters (00_scope.md R6). -/
  params : Config.Params
  /-- The model's own: counts steps and keys the free values of Config.lean (log 14). -/
  draws : Nat
  deriving DecidableEq, Repr

/-- The machine right after reset (70_reset_and_hazards.md R440). DESIGN CHOICE for what R440 leaves
unspecified: A, X (log 1) and V, H, N, Z, C (log 2) are zero, and memory lists nothing (log 4), so the
word at VEC_RESET reads $0000 (log 33). The inputs are idle (log 12, 32), the devices' state is 0 (log 40). -/
def State.reset : State where
  a := 0x00
  x := 0x00
  h := Config.Params.default.resetH
  sp := Config.Params.default.resetSp
  pc := 0x0000
  ccr := { v := false, h := false, i := true, n := false, z := false, c := false }
  mem := []
  cliDelay := false
  runState := .running
  irqPin := true
  sources := []
  resetLine := false
  io := 0
  params := Config.Params.default
  draws := 0

/-- What one step answers. -/
abbrev Out := Host.Outcome State Fault Refusal

/-- A value, or the fault that stops the machine. -/
abbrev Result (α : Type) := Except Fault α

end Sys2Proof.Machine
end

