-- ==== Sys2Proof/Machine/Ops.lean ====
section
/-! DEFINITION. The shared operations: memory in canonical form, byte accesses through MEMMAP, the stack,
the program counter, the condition codes as a byte, taking an exception, returning from one, and reset. -/

namespace Sys2Proof.Machine

open Sys2Proof

/-! ## Memory -/

/-- What an address nothing has written reads as: $00, DESIGN CHOICE (log 4). -/
def Memory.unlisted : Byte := 0x00

/-- The byte at an address. -/
def Memory.read : Memory → Nat → Byte
  | [], _ => Memory.unlisted
  | (k, v) :: rest, a => if k = a then v else Memory.read rest a

/-- Puts a byte at an address and keeps the canonical form: rising addresses, no entry that reads as an
unlisted address does. -/
def Memory.write : Memory → Nat → Byte → Memory
  | [], a, v => if v = Memory.unlisted then [] else [(a, v)]
  | (k, w) :: rest, a, v =>
    if a < k then
      if v = Memory.unlisted then (k, w) :: rest else (a, v) :: (k, w) :: rest
    else if a = k then
      if v = Memory.unlisted then rest else (a, v) :: rest
    else (k, w) :: Memory.write rest a v

/-- The bytes put at consecutive addresses, modulo 2^16, from `a` on. -/
def placeBytes (mem : Memory) (a : Word) : List Byte → Memory
  | [] => mem
  | b :: rest => placeBytes (mem.write a.toNat b) (a + 1) rest

/-- Every address listed is at least `low` and inside the address space, the addresses strictly rise,
and no entry reads as an unlisted address does. -/
def Memory.wfFrom (low : Nat) : Memory → Bool
  | [] => true
  | (k, v) :: rest =>
    decide (low ≤ k) && decide (k < 65536) && decide (v ≠ Memory.unlisted) &&
      Memory.wfFrom (k + 1) rest

/-- The canonical form: equal memories are equal lists. -/
def Memory.wf (m : Memory) : Bool := Memory.wfFrom 0 m

/-! ## Stopping -/

/-- An instruction's result as the outcome of a step. -/
def outcome : Result State → Out
  | .ok s => .next s
  | .error f => .fault f

/-! ## Accesses through MEMMAP (20_memory.md R63, R65) -/

/-- What MEMMAP puts at an address: the first region that covers it, else RAM. -/
def State.kindAt (s : State) (a : Word) : Config.RegionKind :=
  match s.params.memmap.find? fun r => r.first ≤ a && a ≤ r.last with
  | some r => r.kind
  | none => .ram

/-- The byte memory holds at an address, whatever stands in front of it. -/
def State.byteAt (s : State) (a : Word) : Byte := s.mem.read a.toNat

/-- One access of the CPU to the bus: every access is of one byte (20_memory.md R60). -/
inductive Access where
  | read (a : Word)
  | write (a : Word) (v : Byte)
  deriving DecidableEq, Repr

/-- The address of an access. -/
def Access.address : Access → Word
  | .read a => a
  | .write a _ => a

/-- The devices' state after one access: an I/O register may react to a read as to a write, nothing else does
(20_memory.md R63). -/
def State.ioStep (s : State) (io : Nat) : Access → Nat
  | .read a =>
    match s.kindAt a with
    | .device id => Config.deviceAfterRead id io s.draws a
    | .ram | .rom | .romFaulting | .unimplemented => io
  | .write a v =>
    match s.kindAt a with
    | .device id => Config.deviceAfterWrite id io s.draws a v
    | .ram | .rom | .romFaulting | .unimplemented => io

/-- The devices' state after these accesses, the first one first. -/
def State.ioAfter (s : State) (accesses : List Access) : Nat := accesses.foldl s.ioStep s.io

/-- The state after a read of an address. -/
def State.afterRead (s : State) (a : Word) : State := { s with io := s.ioAfter [.read a] }

/-- The byte a read gives (`MemRead(a, 1)` of 00_scope.md R9); what the read does besides is
`State.afterRead`. -/
def State.loadAs (s : State) (kind : Config.AccessKind) (a : Word) : Result Byte :=
  match s.kindAt a with
  | .ram | .rom | .romFaulting => .ok (s.byteAt a)
  | .device id => .ok (Config.deviceRead id s.io s.draws a)
  | .unimplemented =>
    match s.params.unimplAccess with
    | .fault => .error (.unimplementedAccess a)
    | .readAnyWriteIgnored => .ok (Config.floatingByte s.draws kind a)

/-- A data read. -/
def State.load (s : State) (a : Word) : Result Byte := s.loadAs .data a

/-- A read of an instruction byte. -/
def State.fetchByte (s : State) (a : Word) : Result Byte := s.loadAs .fetch a

/-- One byte written (`MemWrite(a, 1, v)` of 00_scope.md R9): a write to ROM is ignored or faults, as MEMMAP
says (R65; 00_scope.md R6; 60_exceptions.md R420). -/
def State.store (s : State) (a : Word) (v : Byte) : Result State :=
  match s.kindAt a with
  | .ram => .ok { s with mem := s.mem.write a.toNat v }
  | .rom => .ok s
  | .romFaulting => .error (.romWrite a)
  | .device _ => .ok { s with io := s.ioAfter [.write a v] }
  | .unimplemented =>
    match s.params.unimplAccess with
    | .fault => .error (.unimplementedAccess a)
    | .readAnyWriteIgnored => .ok s

/-- A 16-bit read: the byte at the address is the high byte and is read first (20_memory.md R55, R60). -/
def State.loadWord (s : State) (a : Word) : Result Word := do
  let hi ← s.load a
  let lo ← (s.afterRead a).load (a + 1)
  .ok (wordOf hi lo)

/-- A 16-bit write, high byte first, to the address and the one after it (20_memory.md R55, R60). -/
def State.storeWord (s : State) (a : Word) (w : Word) : Result State := do
  let s1 ← s.store a (hiByte w)
  s1.store (a + 1) (loByte w)

/-- Whether a store to an address goes through without stopping the machine. -/
def State.writable (s : State) (a : Word) : Bool :=
  match s.kindAt a with
  | .ram | .rom | .device _ => true
  | .romFaulting => false
  | .unimplemented => decide (s.params.unimplAccess = .readAnyWriteIgnored)

/-! ## The stack (00_scope.md R9, 10_state.md R23) -/

/-- `push8`: store at SP, then decrement SP. -/
def State.push (s : State) (v : Byte) : Result State := do
  let t ← s.store s.sp v
  .ok { t with sp := s.sp - 1 }

/-- `pull8`: increment SP, then load from it. -/
def State.pull (s : State) : Result (Byte × State) := do
  let v ← s.load (s.sp + 1)
  .ok (v, { s.afterRead (s.sp + 1) with sp := s.sp + 1 })

/-- Pushes a return address: low byte first, then high byte (20_memory.md R57). -/
def State.pushWord (s : State) (w : Word) : Result State := do
  let s1 ← s.push (loByte w)
  s1.push (hiByte w)

/-- Pulls a return address: high byte first, then low byte. -/
def State.pullWord (s : State) : Result (Word × State) := do
  let (hi, s1) ← s.pull
  let (lo, s2) ← s1.pull
  .ok (wordOf hi lo, s2)

/-! ## H:X and PC -/

/-- `H:X` as one 16-bit value (00_scope.md R8). -/
def State.hx (s : State) : Word := wordOf s.h s.x

/-- `HX <- v` (00_scope.md R8). -/
def State.setHX (s : State) (v : Word) : State := { s with h := hiByte v, x := loByte v }

/-- `sext_16` (00_scope.md R7). -/
def sext16 (b : Byte) : Word := b.signExtend 16

/-- `zext_16` (00_scope.md R7). -/
def zext16 (b : Byte) : Word := b.zeroExtend 16

/-- `PC <- next`, `next` being `len` bytes on (00_scope.md R9, 10_state.md R25). -/
def State.advance (s : State) (len : Nat) : State := { s with pc := s.pc + BitVec.ofNat 16 len }

/-- The end of every branch instruction of `len` bytes (45_branch.md R240): to `next + sext_16(rr)` if
the condition holds, else to `next`. -/
def State.branch (s : State) (len : Nat) (rr : Byte) (taken : Bool) : State :=
  let next := s.pc + BitVec.ofNat 16 len
  { s with pc := if taken then next + sext16 rr else next }

/-! ## The CCR as a byte (10_state.md R27) -/

/-- `V : 1 : 1 : H : I : N : Z : C`. -/
def Ccr.toByte (f : Ccr) : Byte :=
  BitVec.ofBool f.v ++ 0b11#2 ++ BitVec.ofBool f.h ++ BitVec.ofBool f.i ++ BitVec.ofBool f.n ++
    BitVec.ofBool f.z ++ BitVec.ofBool f.c

/-- The flags a byte written to the CCR sets; bits 6 and 5 are discarded. -/
def Ccr.ofByte (b : Byte) : Ccr where
  v := b.getLsbD 7
  h := b.getLsbD 4
  i := b.getLsbD 3
  n := b.getLsbD 2
  z := b.getLsbD 1
  c := b.getLsbD 0

/-! ## Exceptions -/

/-- VEC_SWI (60_exceptions.md R403). -/
def vecSwi : Word := 0xFFFC

/-- Taking an exception (60_exceptions.md R409, R410, R413; 47_control.md R303): push PCL, PCH of the
return address, X, A and the CCR byte as it is; set I; load PC from the vector, high byte first. H is not
pushed (R411). SWI and every hardware interrupt use it. -/
def State.takeException (s : State) (ret vec : Word) : Result State := do
  let s1 ← s.pushWord ret
  let s2 ← s1.push s.x
  let s3 ← s2.push s.a
  let s4 ← s3.push s.ccr.toByte
  let target ← s4.loadWord vec
  .ok { s4 with
    io := s4.ioAfter [.read vec, .read (vec + 1)], ccr := { s.ccr with i := true }, pc := target }

/-- Returning from an exception (47_control.md R301, 60_exceptions.md R415): pull the CCR byte, A, X, PCH
and PCL. H keeps its value. -/
def State.returnFromException (s : State) : Result State := do
  let (flags, s1) ← s.pull
  let (a, s2) ← s1.pull
  let (x, s3) ← s2.pull
  let (pc, s4) ← s3.pullWord
  .ok { s4 with ccr := Ccr.ofByte flags, a := a, x := x, pc := pc }

/-- The reset sequence in a run (70_reset_and_hazards.md R441): RUNNING, no CLI delay, I set, SP and H at
the parameters' values, PC from the reset vector; A, X, V, H, N, Z, C are free values (log 13). The devices
are reset before the vector is read (R440, log 40). Nothing is stacked and memory is kept. -/
def State.resetEntry (s : State) : Result State := do
  let u := { s with io := Config.deviceAfterReset s.io s.draws }
  let target ← u.loadWord s.params.vecReset
  .ok { s with
    io := u.ioAfter [.read s.params.vecReset, .read (s.params.vecReset + 1)]
    runState := .running
    cliDelay := false
    sp := s.params.resetSp
    h := s.params.resetH
    a := Config.resetA s.draws
    x := Config.resetX s.draws
    ccr :=
      { v := Config.resetV s.draws
        h := Config.resetHalf s.draws
        i := true
        n := Config.resetN s.draws
        z := Config.resetZ s.draws
        c := Config.resetC s.draws }
    pc := target }

/-! ## What the environment does between two steps (10_state.md R40, R41; 70_reset_and_hazards.md R441) -/

/-- Drives the IRQ pin: true is high. -/
def State.setIrqPin (s : State) (level : Bool) : State := { s with irqPin := level }

/-- Raises and clears requests of the further sources. -/
def State.setSources (s : State) (sources : List IrqSource) : State := { s with sources := sources }

/-- Changes the devices' state between two steps. -/
def State.setIo (s : State) (io : Nat) : State := { s with io := io }

/-- Asserts or releases the reset input. -/
def State.setResetLine (s : State) (asserted : Bool) : State := { s with resetLine := asserted }

end Sys2Proof.Machine
end

