-- ==== Sys2Proof/Machine/Operands.lean ====
section
/-! DEFINITION. Every operand form: the effective address of each addressing mode (30_encoding.md R85 to
R96) and the operand's value. All sums are modulo 2^16 (20_memory.md R51). -/

namespace Sys2Proof

open Machine

/-- The effective address of a memory operand (R88 to R94). -/
def MemRef.ea (m : MemRef) (s : State) : Word :=
  match m with
  | .dir dd => zext16 dd
  | .ext hhll => hhll
  | .ix2 eeff => s.hx + eeff
  | .ix1 ff => s.hx + zext16 ff
  | .ix => s.hx
  | .sp1 ff => s.sp + zext16 ff
  | .sp2 eeff => s.sp + eeff

/-- The 8-bit source operand `m` (40_load_store_move.md R118). -/
def Src.value (o : Src) (s : State) : Result Byte :=
  match o with
  | .imm ii => .ok ii
  | .mem m => s.load (m.ea s)

/-- The accesses that reading the operand makes. -/
def Src.accesses (o : Src) (s : State) : List Access :=
  match o with
  | .imm _ => []
  | .mem m => [.read (m.ea s)]

/-- The 16-bit source operand: `ii:jj`, or the bytes at `$00:dd` and at the next address, which is not
confined to the direct page (40_load_store_move.md R123). -/
def WideSrc.value (w : WideSrc) (s : State) : Result Word :=
  match w with
  | .imm16 iijj => .ok iijj
  | .dir dd => s.loadWord (zext16 dd)

/-- The accesses that reading the operand makes. -/
def WideSrc.accesses : WideSrc → List Access
  | .imm16 _ => []
  | .dir dd => [.read (zext16 dd), .read (zext16 dd + 1)]

/-- The effective address of CBEQ's operand, from H:X before any increment (45_branch.md R263). -/
def CbeqRef.ea (m : CbeqRef) (s : State) : Word :=
  match m with
  | .dir dd => zext16 dd
  | .ix1Inc ff => s.hx + zext16 ff
  | .ixInc => s.hx
  | .sp1 ff => s.sp + zext16 ff

/-- Whether CBEQ's form increments H:X afterwards (30_encoding.md R96). -/
def CbeqRef.increments : CbeqRef → Bool
  | .ix1Inc _ | .ixInc => true
  | .dir _ | .sp1 _ => false

/-- The byte MOV moves (40_load_store_move.md R125). -/
def MovForm.source (f : MovForm) (s : State) : Result Byte :=
  match f with
  | .dd src _ => s.load (zext16 src)
  | .dixInc src => s.load (zext16 src)
  | .imd ii _ => .ok ii
  | .ixIncD _ => s.load s.hx

/-- The accesses that reading MOV's source makes. -/
def MovForm.reads (f : MovForm) (s : State) : List Access :=
  match f with
  | .dd src _ => [.read (zext16 src)]
  | .dixInc src => [.read (zext16 src)]
  | .imd _ _ => []
  | .ixIncD _ => [.read s.hx]

/-- The address MOV writes, from H:X before any increment. -/
def MovForm.target (f : MovForm) (s : State) : Word :=
  match f with
  | .dd _ dst => zext16 dst
  | .dixInc _ => s.hx
  | .imd _ dst => zext16 dst
  | .ixIncD dst => zext16 dst

/-- Whether MOV's form increments H:X afterwards. -/
def MovForm.increments : MovForm → Bool
  | .dixInc _ | .ixIncD _ => true
  | .dd _ _ | .imd _ _ => false

namespace Machine

/-- `HX <- HX + 1` where the form says so. -/
def State.bumpHX (s : State) (increments : Bool) : State :=
  if increments then s.setHX (s.hx + 1) else s

end Machine

end Sys2Proof
end

