-- ==== Sys2Proof/Machine/Flags.lean ====
section
/-! DEFINITION. Every flag computation: the arithmetic helpers of 00_scope.md R10, the rules for V of
42_arithmetic.md R168 and 43_logic_shift.md R199, and the one-byte operations of the read-modify-write
group with the flags each sets. -/

namespace Sys2Proof.Machine

open Sys2Proof

/-- What an 8-bit addition or subtraction computes. -/
structure Alu where
  /-- The result modulo 2^8. -/
  r : Byte
  /-- Carry out of bit 3; additions only. -/
  half : Bool
  /-- Carry out of bit 7, or borrow. -/
  carry : Bool
  /-- Two's-complement overflow. -/
  overflow : Bool
  deriving DecidableEq, Repr

/-- `add8(a, m, cin)` of 00_scope.md R10. -/
def add8 (a m : Byte) (cin : Bool) : Alu :=
  let s := a.toNat + m.toNat + cin.toNat
  let r : Byte := BitVec.ofNat 8 s
  { r := r
    half := decide (15 < a.toNat % 16 + m.toNat % 16 + cin.toNat)
    carry := decide (255 < s)
    overflow := (a.msb && m.msb && !r.msb) || (!a.msb && !m.msb && r.msb) }

/-- `sub8(a, m, bin)` of 00_scope.md R10; it has no half carry. -/
def sub8 (a m : Byte) (bin : Bool) : Alu :=
  let d : Int := a.toNat - m.toNat - bin.toNat
  let r : Byte := BitVec.ofInt 8 d
  { r := r
    half := false
    carry := decide (d < 0)
    overflow := (a.msb && !m.msb && !r.msb) || (!a.msb && m.msb && r.msb) }

/-- What a 16-bit comparison computes. -/
structure Alu16 where
  /-- The result modulo 2^16. -/
  r : Word
  /-- Borrow. -/
  carry : Bool
  /-- Two's-complement overflow. -/
  overflow : Bool
  deriving DecidableEq, Repr

/-- `sub16(a, m)` of 00_scope.md R10. -/
def sub16 (a m : Word) : Alu16 :=
  let d : Int := a.toNat - m.toNat
  let r : Word := BitVec.ofInt 16 d
  { r := r
    carry := decide (d < 0)
    overflow := (a.msb && !m.msb && !r.msb) || (!a.msb && m.msb && r.msb) }

/-- `setNZ8(r)` of 00_scope.md R10. -/
def Ccr.setNZ8 (f : Ccr) (r : Byte) : Ccr := { f with n := r.msb, z := decide (r = 0) }

/-- `setNZ16(r)` of 00_scope.md R10. -/
def Ccr.setNZ16 (f : Ccr) (r : Word) : Ccr := { f with n := r.msb, z := decide (r = 0) }

/-- After ADD and ADC: V, H, N, Z, C (42_arithmetic.md R170, R171). -/
def Ccr.afterAdd (f : Ccr) (q : Alu) : Ccr :=
  { f with v := q.overflow, h := q.half, c := q.carry }.setNZ8 q.r

/-- After SUB, SBC, CMP, CPX: V, N, Z, C (42_arithmetic.md R172, R174, R181, R182). -/
def Ccr.afterSub (f : Ccr) (q : Alu) : Ccr :=
  { f with v := q.overflow, c := q.carry }.setNZ8 q.r

/-- After CPHX: V, N, Z, C from 16 bits (42_arithmetic.md R173). -/
def Ccr.afterSub16 (f : Ccr) (q : Alu16) : Ccr :=
  { f with v := q.overflow, c := q.carry }.setNZ16 q.r

/-- After a load, store, move, logic operation or test of a byte: V = 0, N, Z
(40_load_store_move.md R122 to R128; 43_logic_shift.md R199; 42_arithmetic.md R183). -/
def Ccr.afterMove (f : Ccr) (r : Byte) : Ccr := { f with v := false }.setNZ8 r

/-- After LDHX and STHX: V = 0, N, Z from 16 bits (40_load_store_move.md R123, R127). -/
def Ccr.afterMove16 (f : Ccr) (r : Word) : Ccr := { f with v := false }.setNZ16 r

/-- After CLR and CLRH: V = 0, N = 0, Z = 1 (40_load_store_move.md R120, R121). -/
def Ccr.afterClear (f : Ccr) : Ccr := { f with v := false, n := false, z := true }

/-- After a shift or rotate with result `r` that moved `out` into C: V = N xor C
(43_logic_shift.md R199; PRESUMED by the spec, log 18). -/
def Ccr.afterShift (f : Ccr) (r : Byte) (out : Bool) : Ccr :=
  { f with c := out, v := r.msb ^^ out }.setNZ8 r

/-! ## The one-byte operations: the flags before and the operand give the result and the flags after -/

/-- NEG (42_arithmetic.md R180). -/
def negByte (f : Ccr) (v : Byte) : Byte × Ccr :=
  let r : Byte := 0 - v
  (r, { f with v := decide (r = 0x80), c := decide (r ≠ 0) }.setNZ8 r)

/-- COM (43_logic_shift.md R204). -/
def comByte (f : Ccr) (v : Byte) : Byte × Ccr :=
  let r : Byte := v ^^^ 0xFF
  (r, { f with v := false, c := true }.setNZ8 r)

/-- LSR (43_logic_shift.md R206): N is 0 because bit 7 of the result is. -/
def lsrByte (f : Ccr) (v : Byte) : Byte × Ccr :=
  let r : Byte := v >>> 1
  (r, f.afterShift r (v.getLsbD 0))

/-- ROR (43_logic_shift.md R210): the C before enters bit 7. -/
def rorByte (f : Ccr) (v : Byte) : Byte × Ccr :=
  let r : Byte := (v >>> 1) ||| (if f.c then 0x80 else 0x00)
  (r, f.afterShift r (v.getLsbD 0))

/-- ASR (43_logic_shift.md R202): bit 7 is kept. -/
def asrByte (f : Ccr) (v : Byte) : Byte × Ccr :=
  let r : Byte := (v >>> 1) ||| (v &&& 0x80)
  (r, f.afterShift r (v.getLsbD 0))

/-- LSL = ASL (43_logic_shift.md R201). -/
def lslByte (f : Ccr) (v : Byte) : Byte × Ccr :=
  let r : Byte := v <<< 1
  (r, f.afterShift r v.msb)

/-- ROL (43_logic_shift.md R209): the C before enters bit 0. -/
def rolByte (f : Ccr) (v : Byte) : Byte × Ccr :=
  let r : Byte := (v <<< 1) ||| (if f.c then 0x01 else 0x00)
  (r, f.afterShift r v.msb)

/-- DEC (42_arithmetic.md R176): V when the operand was $80; C is kept. -/
def decByte (f : Ccr) (v : Byte) : Byte × Ccr :=
  let r : Byte := v - 1
  (r, { f with v := decide (v = 0x80) }.setNZ8 r)

/-- INC (42_arithmetic.md R178): V when the operand was $7F; C is kept. -/
def incByte (f : Ccr) (v : Byte) : Byte × Ccr :=
  let r : Byte := v + 1
  (r, { f with v := decide (v = 0x7F) }.setNZ8 r)

/-! ## The shapes of the read-modify-write group -/

/-- A one-byte operation on A. -/
def onA (op : Ccr → Byte → Byte × Ccr) (s : State) : State :=
  { s with a := (op s.ccr s.a).1, ccr := (op s.ccr s.a).2 }.advance 1

/-- A one-byte operation on X; H is unchanged (10_state.md R22). -/
def onX (op : Ccr → Byte → Byte × Ccr) (s : State) : State :=
  { s with x := (op s.ccr s.x).1, ccr := (op s.ccr s.x).2 }.advance 1

/-- A one-byte operation on memory: one read, then one write of the same address (20_memory.md R61). -/
def onMem (op : Ccr → Byte → Byte × Ccr) (m : MemRef) (s : State) : Result State := do
  let v ← s.load (m.ea s)
  let t ← (s.afterRead (m.ea s)).store (m.ea s) (op s.ccr v).1
  .ok ({ t with ccr := (op s.ccr v).2 }.advance m.length)

/-- An instruction that reads an 8-bit source operand and then does `f` with it. -/
def withSrc (o : Src) (s : State) (f : Byte → State) : Result State := do
  let v ← o.value s
  .ok ({ f v with io := s.ioAfter (o.accesses s) }.advance o.length)

/-- An instruction that stores one register's byte, with the flags of a move (40_load_store_move.md R126,
R128). -/
def storeReg (v : Byte) (m : MemRef) (s : State) : Result State := do
  let t ← s.store (m.ea s) v
  .ok ({ t with ccr := s.ccr.afterMove v }.advance m.length)

/-! ## DAA's table (42_arithmetic.md R175) -/

/-- A row of M's function table: columns 1 to 4 are the inputs, 5 the correction, 6 C afterwards. -/
structure DaaRow where
  cBefore : Bool
  hiFrom : Nat
  hiTo : Nat
  hBefore : Bool
  loFrom : Nat
  loTo : Nat
  correction : Byte
  cAfter : Bool
  deriving DecidableEq, Repr

/-- The nine rows, as printed. -/
def daaTable : List DaaRow :=
  [⟨false, 0x0, 0x9, false, 0x0, 0x9, 0x00, false⟩,
   ⟨false, 0x0, 0x8, false, 0xA, 0xF, 0x06, false⟩,
   ⟨false, 0x0, 0x9, true, 0x0, 0x3, 0x06, false⟩,
   ⟨false, 0xA, 0xF, false, 0x0, 0x9, 0x60, true⟩,
   ⟨false, 0x9, 0xF, false, 0xA, 0xF, 0x66, true⟩,
   ⟨false, 0xA, 0xF, true, 0x0, 0x3, 0x66, true⟩,
   ⟨true, 0x0, 0x2, false, 0x0, 0x9, 0x60, true⟩,
   ⟨true, 0x0, 0x2, false, 0xA, 0xF, 0x66, true⟩,
   ⟨true, 0x0, 0x3, true, 0x0, 0x3, 0x66, true⟩]

/-- The row whose columns 1 to 4 match, if one does. -/
def daaRow (a : Byte) (h c : Bool) : Option DaaRow :=
  daaTable.find? fun row =>
    row.cBefore == c && row.hBefore == h &&
      decide (row.hiFrom ≤ a.toNat / 16) && decide (a.toNat / 16 ≤ row.hiTo) &&
      decide (row.loFrom ≤ a.toNat % 16) && decide (a.toNat % 16 ≤ row.loTo)

end Sys2Proof.Machine
end

