-- ==== Sys2Proof/Machine/Arithmetic.lean ====
section
/-! DEFINITION. Arithmetic and compare instructions (42_arithmetic.md R170 to R183). -/

namespace Sys2Proof.Machine

open Sys2Proof

/-- ADC (R170). -/
def execAdc (o : Src) (s : State) : Out :=
  outcome (withSrc o s fun v =>
    { s with a := (add8 s.a v s.ccr.c).r, ccr := s.ccr.afterAdd (add8 s.a v s.ccr.c) })

/-- ADD (R171). -/
def execAdd (o : Src) (s : State) : Out :=
  outcome (withSrc o s fun v =>
    { s with a := (add8 s.a v false).r, ccr := s.ccr.afterAdd (add8 s.a v false) })

/-- SUB (R182). -/
def execSub (o : Src) (s : State) : Out :=
  outcome (withSrc o s fun v =>
    { s with a := (sub8 s.a v false).r, ccr := s.ccr.afterSub (sub8 s.a v false) })

/-- SBC (R181): C is subtracted as it stands. -/
def execSbc (o : Src) (s : State) : Out :=
  outcome (withSrc o s fun v =>
    { s with a := (sub8 s.a v s.ccr.c).r, ccr := s.ccr.afterSub (sub8 s.a v s.ccr.c) })

/-- CMP (R172): A is not written. -/
def execCmp (o : Src) (s : State) : Out :=
  outcome (withSrc o s fun v => { s with ccr := s.ccr.afterSub (sub8 s.a v false) })

/-- CPX (R174): X and H are not written. -/
def execCpx (o : Src) (s : State) : Out :=
  outcome (withSrc o s fun v => { s with ccr := s.ccr.afterSub (sub8 s.x v false) })

/-- CPHX (R173): H:X is not written. -/
def execCphx (w : WideSrc) (s : State) : Out :=
  outcome do
    let v ← w.value s
    .ok ({ s with io := s.ioAfter w.accesses, ccr := s.ccr.afterSub16 (sub16 s.hx v) }.advance w.length)

/-- DAA (R175): V is a free value on every input; outside the table A, C, N, Z are free too
(93_implementation_defined.md U2, U3; log 16). -/
def execDaa (s : State) : Out :=
  match daaRow s.a s.ccr.h s.ccr.c with
  | some row =>
    let r := s.a + row.correction
    .next ({ s with
      a := r
      ccr := { s.ccr with c := row.cAfter, v := Config.daaV s.draws }.setNZ8 r }.advance 1)
  | none =>
    .next ({ s with
      a := Config.daaUndefA s.draws s.a s.ccr.h s.ccr.c
      ccr := { s.ccr with
        v := Config.daaV s.draws
        n := Config.daaUndefN s.draws s.a s.ccr.h s.ccr.c
        z := Config.daaUndefZ s.draws s.a s.ccr.h s.ccr.c
        c := Config.daaUndefC s.draws s.a s.ccr.h s.ccr.c } }.advance 1)

/-- DIV (R177): H:A by X; on overflow or divisor zero C is set and A, H and Z are free values
(93_implementation_defined.md U1, log 15). X is unchanged. -/
def execDiv (s : State) : Out :=
  let n := s.h.toNat * 256 + s.a.toNat
  if s.x = 0 ∨ 255 < n / s.x.toNat then
    .next ({ s with
      a := Config.divOvfA s.draws s.h s.a s.x
      h := Config.divOvfH s.draws s.h s.a s.x
      ccr := { s.ccr with z := Config.divOvfZ s.draws s.h s.a s.x, c := true } }.advance 1)
  else
    .next ({ s with
      a := BitVec.ofNat 8 (n / s.x.toNat)
      h := BitVec.ofNat 8 (n % s.x.toNat)
      ccr := { s.ccr with z := decide (n / s.x.toNat = 0), c := false } }.advance 1)

/-- MUL (R179): the register H is not involved; Z and N are kept. -/
def execMul (s : State) : Out :=
  let p : Word := BitVec.ofNat 16 (s.x.toNat * s.a.toNat)
  .next ({ s with
    x := hiByte p
    a := loByte p
    ccr := { s.ccr with h := false, c := false } }.advance 1)

/-- NEG on memory (R180). -/
def execNeg (m : MemRef) (s : State) : Out := outcome (onMem negByte m s)

/-- NEGA (R180). -/
def execNega (s : State) : Out := .next (onA negByte s)

/-- NEGX (R180). -/
def execNegx (s : State) : Out := .next (onX negByte s)

/-- DEC on memory (R176). -/
def execDec (m : MemRef) (s : State) : Out := outcome (onMem decByte m s)

/-- DECA (R176). -/
def execDeca (s : State) : Out := .next (onA decByte s)

/-- DECX (R176): no borrow from H. -/
def execDecx (s : State) : Out := .next (onX decByte s)

/-- INC on memory (R178). -/
def execInc (m : MemRef) (s : State) : Out := outcome (onMem incByte m s)

/-- INCA (R178). -/
def execInca (s : State) : Out := .next (onA incByte s)

/-- INCX (R178): no carry into H. -/
def execIncx (s : State) : Out := .next (onX incByte s)

/-- TST on memory (R183): one read, no write. -/
def execTst (m : MemRef) (s : State) : Out :=
  outcome do
    let v ← s.load (m.ea s)
    .ok ({ s.afterRead (m.ea s) with ccr := s.ccr.afterMove v }.advance m.length)

/-- TSTA (R183). -/
def execTsta (s : State) : Out := .next ({ s with ccr := s.ccr.afterMove s.a }.advance 1)

/-- TSTX (R183). -/
def execTstx (s : State) : Out := .next ({ s with ccr := s.ccr.afterMove s.x }.advance 1)

end Sys2Proof.Machine
end

