-- ==== Sys2Proof/Machine/BitCcr.lean ====
section
/-! DEFINITION. Bit manipulation and condition-code instructions (44_bit_ccr.md R220 to R227). -/

namespace Sys2Proof.Machine

open Sys2Proof

/-- `1 << n` (30_encoding.md R97). -/
def bitMask (n : Fin 8) : Byte := 1#8 <<< n.val

/-- A whole-byte read-modify-write of a direct-page byte that changes no flag: all eight bits are read and all
eight are written, always (20_memory.md R63). -/
def modifyDirect (f : Byte → Byte) (dd : Byte) (s : State) : Result State := do
  let v ← s.load (zext16 dd)
  let t ← (s.afterRead (zext16 dd)).store (zext16 dd) (f v)
  .ok (t.advance 2)

/-- BCLR n (R220). -/
def execBclr (n : Fin 8) (dd : Byte) (s : State) : Out :=
  outcome (modifyDirect (fun v => v &&& ~~~bitMask n) dd s)

/-- BSET n (R221). -/
def execBset (n : Fin 8) (dd : Byte) (s : State) : Out :=
  outcome (modifyDirect (fun v => v ||| bitMask n) dd s)

/-- BRCLR and BRSET: C becomes the tested bit, taken or not; the branch is taken when it equals `want`. -/
def testBitBranch (want : Bool) (n : Fin 8) (dd rr : Byte) (s : State) : Result State := do
  let v ← s.load (zext16 dd)
  let b := v.getLsbD n.val
  .ok ({ s.afterRead (zext16 dd) with ccr := { s.ccr with c := b } }.branch 3 rr (b == want))

/-- BRCLR n (R222). -/
def execBrclr (n : Fin 8) (dd rr : Byte) (s : State) : Out := outcome (testBitBranch false n dd rr s)

/-- BRSET n (R223). -/
def execBrset (n : Fin 8) (dd rr : Byte) (s : State) : Out := outcome (testBitBranch true n dd rr s)

/-- CLC (R224). -/
def execClc (s : State) : Out := .next ({ s with ccr := { s.ccr with c := false } }.advance 1)

/-- SEC (R226). -/
def execSec (s : State) : Out := .next ({ s with ccr := { s.ccr with c := true } }.advance 1)

/-- CLI (R225): every CLI sets the delay (log 26). -/
def execCli (s : State) : Out :=
  .next ({ s with ccr := { s.ccr with i := false }, cliDelay := true }.advance 1)

/-- SEI (R227). -/
def execSei (s : State) : Out := .next ({ s with ccr := { s.ccr with i := true } }.advance 1)

end Sys2Proof.Machine
end

