-- ==== Sys2Proof/Machine/Branch.lean ====
section
/-! DEFINITION. Branch instructions (45_branch.md R241 to R268). None changes a flag. -/

namespace Sys2Proof.Machine

open Sys2Proof

/-- BRA (R241). -/
def execBra (rr : Byte) (s : State) : Out := .next (s.branch 2 rr true)

/-- BRN (R242): the offset byte is fetched and ignored. -/
def execBrn (rr : Byte) (s : State) : Out := .next (s.branch 2 rr false)

/-- BCC = BHS (R243). -/
def execBcc (rr : Byte) (s : State) : Out := .next (s.branch 2 rr (!s.ccr.c))

/-- BCS = BLO (R244). -/
def execBcs (rr : Byte) (s : State) : Out := .next (s.branch 2 rr s.ccr.c)

/-- BEQ (R245). -/
def execBeq (rr : Byte) (s : State) : Out := .next (s.branch 2 rr s.ccr.z)

/-- BNE (R246). -/
def execBne (rr : Byte) (s : State) : Out := .next (s.branch 2 rr (!s.ccr.z))

/-- BHI (R247). -/
def execBhi (rr : Byte) (s : State) : Out := .next (s.branch 2 rr (!(s.ccr.c || s.ccr.z)))

/-- BLS (R248). -/
def execBls (rr : Byte) (s : State) : Out := .next (s.branch 2 rr (s.ccr.c || s.ccr.z))

/-- BHCC (R249). -/
def execBhcc (rr : Byte) (s : State) : Out := .next (s.branch 2 rr (!s.ccr.h))

/-- BHCS (R250). -/
def execBhcs (rr : Byte) (s : State) : Out := .next (s.branch 2 rr s.ccr.h)

/-- BPL (R251). -/
def execBpl (rr : Byte) (s : State) : Out := .next (s.branch 2 rr (!s.ccr.n))

/-- BMI (R252). -/
def execBmi (rr : Byte) (s : State) : Out := .next (s.branch 2 rr s.ccr.n)

/-- BMC (R253). -/
def execBmc (rr : Byte) (s : State) : Out := .next (s.branch 2 rr (!s.ccr.i))

/-- BMS (R254). -/
def execBms (rr : Byte) (s : State) : Out := .next (s.branch 2 rr s.ccr.i)

/-- BIH (R255): the level of the pin, whatever I is; nothing is acknowledged (60_exceptions.md R424). -/
def execBih (rr : Byte) (s : State) : Out := .next (s.branch 2 rr s.irqPin)

/-- BIL (R256). -/
def execBil (rr : Byte) (s : State) : Out := .next (s.branch 2 rr (!s.irqPin))

/-- BGE (R259). -/
def execBge (rr : Byte) (s : State) : Out := .next (s.branch 2 rr (!(s.ccr.n ^^ s.ccr.v)))

/-- BGT (R260). -/
def execBgt (rr : Byte) (s : State) : Out :=
  .next (s.branch 2 rr (!(s.ccr.z || (s.ccr.n ^^ s.ccr.v))))

/-- BLE (R261). -/
def execBle (rr : Byte) (s : State) : Out := .next (s.branch 2 rr (s.ccr.z || (s.ccr.n ^^ s.ccr.v)))

/-- BLT (R262). -/
def execBlt (rr : Byte) (s : State) : Out := .next (s.branch 2 rr (s.ccr.n ^^ s.ccr.v))

/-- CBEQ (R263): the increment happens whether or not the branch is taken. -/
def execCbeq (m : CbeqRef) (rr : Byte) (s : State) : Out :=
  outcome do
    let v ← s.load (m.ea s)
    .ok (((s.afterRead (m.ea s)).bumpHX m.increments).branch m.length rr (s.a == v))

/-- CBEQA (R264). -/
def execCbeqa (ii rr : Byte) (s : State) : Out := .next (s.branch 3 rr (s.a == ii))

/-- CBEQX (R265): H takes no part. -/
def execCbeqx (ii rr : Byte) (s : State) : Out := .next (s.branch 3 rr (s.x == ii))

/-- DBNZ on memory (R266): no post-increment, no flag. -/
def execDbnz (m : MemRef) (rr : Byte) (s : State) : Out :=
  outcome do
    let v ← s.load (m.ea s)
    let t ← (s.afterRead (m.ea s)).store (m.ea s) (v - 1)
    .ok (t.branch (m.length + 1) rr (v - 1 != 0))

/-- DBNZA (R267). -/
def execDbnza (rr : Byte) (s : State) : Out :=
  .next ({ s with a := s.a - 1 }.branch 2 rr (s.a - 1 != 0))

/-- DBNZX (R268): H is unchanged. -/
def execDbnzx (rr : Byte) (s : State) : Out :=
  .next ({ s with x := s.x - 1 }.branch 2 rr (s.x - 1 != 0))

end Sys2Proof.Machine
end

