-- ==== Sys2Proof/Machine/Control.lean ====
section
/-! DEFINITION. Control instructions (47_control.md R300 to R304). -/

namespace Sys2Proof.Machine

open Sys2Proof

/-- NOP (R300). -/
def execNop (s : State) : Out := .next (s.advance 1)

/-- RTI (R301): I takes the stacked value, with no CLI delay (log 26). -/
def execRti (s : State) : Out := outcome s.returnFromException

/-- STOP (R302): I is cleared, the PC is past the instruction, the machine is STOPPED. -/
def execStop (s : State) : Out :=
  .next ({ s with ccr := { s.ccr with i := false }, runState := .stopped }.advance 1)

/-- SWI (R303): not masked by I. -/
def execSwi (s : State) : Out := outcome (s.takeException (s.pc + 1) vecSwi)

/-- WAIT (R304): I is cleared, the PC is past the instruction, the machine is WAITING. -/
def execWait (s : State) : Out :=
  .next ({ s with ccr := { s.ccr with i := false }, runState := .waiting }.advance 1)

end Sys2Proof.Machine
end

