-- ==== Sys2Proof/Machine/Jump.lean ====
section
/-! DEFINITION. Jump and subroutine instructions (46_jump_subroutine.md R280 to R283). -/

namespace Sys2Proof.Machine

open Sys2Proof

/-- Pushes the return address and goes to the target. -/
def callTo (s : State) (ret target : Word) : Result State := do
  let t ← s.pushWord ret
  .ok { t with pc := target }

/-- BSR (R280). -/
def execBsr (rr : Byte) (s : State) : Out :=
  outcome (callTo s (s.pc + 2) (s.pc + 2 + sext16 rr))

/-- JMP (R281): the effective address itself becomes the PC. -/
def execJmp (m : MemRef) (s : State) : Out := .next { s with pc := m.ea s }

/-- JSR (R282): the effective address is computed before the pushes. -/
def execJsr (m : MemRef) (s : State) : Out :=
  outcome (callTo s (s.pc + BitVec.ofNat 16 m.length) (m.ea s))

/-- RTS (R283). -/
def execRts (s : State) : Out :=
  outcome do
    let (target, t) ← s.pullWord
    .ok { t with pc := target }

end Sys2Proof.Machine
end

