-- ==== Sys2Proof/Machine/LoadStore.lean ====
section
/-! DEFINITION. Load, store, clear and move instructions (40_load_store_move.md R120 to R128). -/

namespace Sys2Proof.Machine

open Sys2Proof

/-- LDA (R122). -/
def execLda (o : Src) (s : State) : Out :=
  outcome (withSrc o s fun v => { s with a := v, ccr := s.ccr.afterMove v })

/-- LDX (R124): H is unchanged. -/
def execLdx (o : Src) (s : State) : Out :=
  outcome (withSrc o s fun v => { s with x := v, ccr := s.ccr.afterMove v })

/-- LDHX (R123). -/
def execLdhx (w : WideSrc) (s : State) : Out :=
  outcome do
    let v ← w.value s
    .ok ({ s.setHX v with io := s.ioAfter w.accesses, ccr := s.ccr.afterMove16 v }.advance w.length)

/-- STA (R126). -/
def execSta (m : MemRef) (s : State) : Out := outcome (storeReg s.a m s)

/-- STX (R128). -/
def execStx (m : MemRef) (s : State) : Out := outcome (storeReg s.x m s)

/-- STHX (R127). -/
def execSthx (dd : Byte) (s : State) : Out :=
  outcome do
    let t ← s.storeWord (zext16 dd) s.hx
    .ok ({ t with ccr := s.ccr.afterMove16 s.hx }.advance 2)

/-- CLR on memory (R120): one write, no read. -/
def execClr (m : MemRef) (s : State) : Out :=
  outcome do
    let t ← s.store (m.ea s) 0x00
    .ok ({ t with ccr := s.ccr.afterClear }.advance m.length)

/-- CLRA (R120). -/
def execClra (s : State) : Out := .next ({ s with a := 0x00, ccr := s.ccr.afterClear }.advance 1)

/-- CLRX (R120): H is unchanged. -/
def execClrx (s : State) : Out := .next ({ s with x := 0x00, ccr := s.ccr.afterClear }.advance 1)

/-- CLRH (R121): X is unchanged. -/
def execClrh (s : State) : Out := .next ({ s with h := 0x00, ccr := s.ccr.afterClear }.advance 1)

/-- MOV (R125): read, write, then the increment of H:X where the form has one. -/
def execMov (f : MovForm) (s : State) : Out :=
  outcome do
    let v ← f.source s
    let t ← { s with io := s.ioAfter (f.reads s) }.store (f.target s) v
    .ok ({ t.bumpHX f.increments with ccr := s.ccr.afterMove v }.advance f.length)

end Sys2Proof.Machine
end

