-- ==== Sys2Proof/Machine/Logic.lean ====
section
/-! DEFINITION. Logic, shift and rotate instructions (43_logic_shift.md R200 to R210). -/

namespace Sys2Proof.Machine

open Sys2Proof

/-- AND (R200). -/
def execAnd (o : Src) (s : State) : Out :=
  outcome (withSrc o s fun v => { s with a := s.a &&& v, ccr := s.ccr.afterMove (s.a &&& v) })

/-- ORA (R208). -/
def execOra (o : Src) (s : State) : Out :=
  outcome (withSrc o s fun v => { s with a := s.a ||| v, ccr := s.ccr.afterMove (s.a ||| v) })

/-- EOR (R205). -/
def execEor (o : Src) (s : State) : Out :=
  outcome (withSrc o s fun v => { s with a := s.a ^^^ v, ccr := s.ccr.afterMove (s.a ^^^ v) })

/-- BIT (R203): A is not written. -/
def execBit (o : Src) (s : State) : Out :=
  outcome (withSrc o s fun v => { s with ccr := s.ccr.afterMove (s.a &&& v) })

/-- NSA (R207): no flag changes. -/
def execNsa (s : State) : Out :=
  .next ({ s with a := s.a.extractLsb' 0 4 ++ s.a.extractLsb' 4 4 }.advance 1)

/-- COM on memory (R204). -/
def execCom (m : MemRef) (s : State) : Out := outcome (onMem comByte m s)

/-- COMA (R204). -/
def execComa (s : State) : Out := .next (onA comByte s)

/-- COMX (R204). -/
def execComx (s : State) : Out := .next (onX comByte s)

/-- LSL = ASL on memory (R201). -/
def execLsl (m : MemRef) (s : State) : Out := outcome (onMem lslByte m s)

/-- LSLA = ASLA (R201). -/
def execLsla (s : State) : Out := .next (onA lslByte s)

/-- LSLX = ASLX (R201). -/
def execLslx (s : State) : Out := .next (onX lslByte s)

/-- ASR on memory (R202). -/
def execAsr (m : MemRef) (s : State) : Out := outcome (onMem asrByte m s)

/-- ASRA (R202). -/
def execAsra (s : State) : Out := .next (onA asrByte s)

/-- ASRX (R202). -/
def execAsrx (s : State) : Out := .next (onX asrByte s)

/-- LSR on memory (R206). -/
def execLsr (m : MemRef) (s : State) : Out := outcome (onMem lsrByte m s)

/-- LSRA (R206). -/
def execLsra (s : State) : Out := .next (onA lsrByte s)

/-- LSRX (R206). -/
def execLsrx (s : State) : Out := .next (onX lsrByte s)

/-- ROL on memory (R209). -/
def execRol (m : MemRef) (s : State) : Out := outcome (onMem rolByte m s)

/-- ROLA (R209). -/
def execRola (s : State) : Out := .next (onA rolByte s)

/-- ROLX (R209). -/
def execRolx (s : State) : Out := .next (onX rolByte s)

/-- ROR on memory (R210). -/
def execRor (m : MemRef) (s : State) : Out := outcome (onMem rorByte m s)

/-- RORA (R210). -/
def execRora (s : State) : Out := .next (onA rorByte s)

/-- RORX (R210). -/
def execRorx (s : State) : Out := .next (onX rorByte s)

end Sys2Proof.Machine
end

