-- ==== Sys2Proof/Machine/Transfer.lean ====
section
/-! DEFINITION. Register transfer, stack and pointer-adjust instructions (41_transfer_stack.md R140 to
R154). Only TAP changes flags. -/

namespace Sys2Proof.Machine

open Sys2Proof

/-- AIS (R140). -/
def execAis (ii : Byte) (s : State) : Out := .next ({ s with sp := s.sp + sext16 ii }.advance 2)

/-- AIX (R141). -/
def execAix (ii : Byte) (s : State) : Out := .next ((s.setHX (s.hx + sext16 ii)).advance 2)

/-- A push instruction: one register's byte, then the next instruction. -/
def pushReg (v : Byte) (s : State) : Result State := do
  let t ← s.push v
  .ok (t.advance 1)

/-- PSHA (R142). -/
def execPsha (s : State) : Out := outcome (pushReg s.a s)

/-- PSHH (R143). -/
def execPshh (s : State) : Out := outcome (pushReg s.h s)

/-- PSHX (R144). -/
def execPshx (s : State) : Out := outcome (pushReg s.x s)

/-- PULA (R145). -/
def execPula (s : State) : Out :=
  outcome do
    let (v, t) ← s.pull
    .ok ({ t with a := v }.advance 1)

/-- PULH (R146): X is unchanged. -/
def execPulh (s : State) : Out :=
  outcome do
    let (v, t) ← s.pull
    .ok ({ t with h := v }.advance 1)

/-- PULX (R147): H is unchanged. -/
def execPulx (s : State) : Out :=
  outcome do
    let (v, t) ← s.pull
    .ok ({ t with x := v }.advance 1)

/-- RSP (R148): SP is $00FF, or keeps its high byte where RSP_CLEARS_SPH is false (log 21). -/
def execRsp (s : State) : Out :=
  .next ({ s with
    sp := if s.params.rspClearsSph then 0x00FF else wordOf (hiByte s.sp) 0xFF }.advance 1)

/-- TAP (R149): no CLI delay (log 26). -/
def execTap (s : State) : Out := .next ({ s with ccr := Ccr.ofByte s.a }.advance 1)

/-- TAX (R150). -/
def execTax (s : State) : Out := .next ({ s with x := s.a }.advance 1)

/-- TPA (R151). -/
def execTpa (s : State) : Out := .next ({ s with a := s.ccr.toByte }.advance 1)

/-- TSX (R152). -/
def execTsx (s : State) : Out := .next ((s.setHX (s.sp + 1)).advance 1)

/-- TXA (R153). -/
def execTxa (s : State) : Out := .next ({ s with a := s.x }.advance 1)

/-- TXS (R154). -/
def execTxs (s : State) : Out := .next ({ s with sp := s.hx - 1 }.advance 1)

end Sys2Proof.Machine
end

