-- ==== Sys2Proof/Machine/Interrupt.lean ====
section
/-! DEFINITION. What happens at an instruction boundary (60_exceptions.md R407, R417): reset, recognition
of an interrupt, or the next instruction; interrupt entry; the fetch of an instruction's bytes; and what an
unassigned opcode does (R418). -/

namespace Sys2Proof.Machine

open Sys2Proof

/-- The vector of the request that is recognised at this boundary, if any: none while `cli_delay` or I is
set; the IRQ pin, low, first; then IRQ_SOURCES in order, which cannot end STOP (R407, R417, R422). -/
def State.recognised (s : State) : Option Word :=
  if s.cliDelay || s.ccr.i then none
  else if !s.irqPin then some s.params.vecIrq
  else if s.runState = .stopped then none
  else (s.sources.find? (·.pending)).map (·.vector)

/-- What a boundary does. -/
inductive BoundaryEvent where
  /-- The reset input is asserted. -/
  | reset
  /-- An interrupt is entered through this vector. -/
  | interrupt (vec : Word)
  /-- The next instruction executes. -/
  | execute
  /-- WAITING or STOPPED with nothing to end it. -/
  | idle
  deriving DecidableEq, Repr

/-- R417's order: reset, then an interrupt, otherwise the next instruction; none while not RUNNING. -/
def State.boundaryEvent (s : State) : BoundaryEvent :=
  if s.resetLine then .reset
  else
    match s.recognised with
    | some vec => .interrupt vec
    | none => if s.runState = .running then .execute else .idle

/-- Entry of a hardware interrupt (R409): the stacked PC is the next instruction not yet executed, and a
low-power state ends (R423). -/
def State.interruptEntry (s : State) (vec : Word) : Result State :=
  { s with runState := .running }.takeException s.pc vec

/-- The accesses that fetch `n` bytes at PC, in ascending order modulo 2^16. -/
def State.fetchAccesses (s : State) (n : Nat) : List Access :=
  (List.range n).map fun k => .read (s.pc + BitVec.ofNat 16 k)

/-- The state after `n` bytes have been fetched. -/
def State.afterFetch (s : State) (n : Nat) : State := { s with io := s.ioAfter (s.fetchAccesses n) }

/-- The instruction at PC: its bytes are read from memory when it starts, in ascending order modulo 2^16,
exactly as many as it has (20_memory.md R70, R71). -/
def State.fetch (s : State) : Result Decoded :=
  readInstr fun k => (s.afterFetch k).fetchByte (s.pc + BitVec.ofNat 16 k)

/-- How many bytes an unassigned opcode has: one, or two after the pre-byte (30_encoding.md R104). -/
def illegalLength (byte1 : Option Byte) : Nat := if byte1.isSome then 2 else 1

/-- An unassigned opcode (30_encoding.md R104): the fault, or the reset sequence, as ILLEGAL_OPCODE says. -/
def State.illegalOpcode (s : State) (byte0 : Byte) (byte1 : Option Byte) : Out :=
  match s.params.illegalOpcode with
  | .fault => .fault (.illegalOpcode s.pc byte0 byte1)
  | .reset => outcome s.resetEntry

/-- Every boundary clears `cli_delay` (R407, R408). -/
def State.clearDelay (s : State) : State := { s with cliDelay := false }

/-- The model's own count of steps, which keys the free values (log 14). -/
def State.tick (s : State) : State := { s with draws := s.draws + 1 }

end Sys2Proof.Machine
end

