-- ==== Sys2Proof/Machine/Execute.lean ====
section
/-! DEFINITION. Executing the instruction at PC. -/

namespace Sys2Proof.Machine

open Sys2Proof

/-- Fetch, decode and execute the instruction at PC. -/
def execute (s : State) : Out :=
  match s.fetch with
  | .error f => .fault f
  | .ok (.illegal byte0 byte1) => (s.afterFetch (illegalLength byte1)).illegalOpcode byte0 byte1
  | .ok (.instr i len) => exec i (s.afterFetch len)

end Sys2Proof.Machine
end

