-- ==== Sys2Proof/Machine/Step.lean ====
section
/-! DEFINITION. One step: what happens at an instruction boundary, or the next instruction
(60_exceptions.md R407, R417); and how an instruction is placed where the next step fetches it. -/

namespace Sys2Proof.Machine

open Sys2Proof

/-- One step: reset entry, or the entry of one interrupt (a step of its own, log 9), or one instruction;
a boundary that does none of these, in WAIT or STOP, changes nothing else (log 34). -/
def step (s : State) : Host.Outcome State Fault Refusal :=
  match s.boundaryEvent with
  | .reset => outcome s.tick.resetEntry
  | .interrupt vec => outcome (s.tick.interruptEntry vec)
  | .execute => execute s.tick.clearDelay
  | .idle => .next s.tick.clearDelay

/-- The instruction of a word of spec/opcode_table.json, stored where the next step fetches: at PC, which
is where the machine fetches (log 29). -/
def State.withFetchWord (s : State) (nbits w : Nat) : State :=
  { s with mem := placeBytes s.mem s.pc (tableBytes nbits w) }

end Sys2Proof.Machine
end

