-- ==== Sys2Proof/Safety.lean ====
section
/-! DEFINITION. The terms claims are stated in: when an access goes through, what a store changes, the
invariant, a boundary at which an instruction executes, and a run without a stop. -/

namespace Sys2Proof.Machine

open Sys2Proof

/-- A read of the address gives a value: RAM, ROM, an I/O register, or nothing there and UNIMPL_ACCESS not
`fault` (20_memory.md R63, R65). `State.writable` of Ops.lean says the same of a store. -/
def State.readable (s : State) (a : Word) : Bool :=
  match s.kindAt a with
  | .ram | .rom | .romFaulting | .device _ => true
  | .unimplemented => decide (s.params.unimplAccess = .readAnyWriteIgnored)

/-- MEMMAP is all RAM: the default of 92_eei_decisions.md D1. -/
def State.AllRam (s : State) : Prop := ∀ a : Word, s.kindAt a = .ram

/-- No access faults, whatever the address. -/
def State.Accessible (s : State) : Prop := ∀ a : Word, s.readable a = true ∧ s.writable a = true

/-- Reading these addresses one after the other gives these bytes; a read of an I/O register may change what
the next one gives. -/
def State.Reads (s : State) : List (Word × Byte) → Prop
  | [] => True
  | (a, v) :: rest => s.load a = .ok v ∧ (s.afterRead a).Reads rest

/-- What the byte at `b` is after the byte stores listed, the latest first: a byte stored there if it is RAM,
else the byte as it was. A store to an address that is not RAM leaves no trace (20_memory.md R65). -/
def State.afterStores (s : State) : List (Word × Byte) → Word → Byte
  | [], b => s.byteAt b
  | (a, v) :: earlier, b => if b = a ∧ s.kindAt b = .ram then v else s.afterStores earlier b

/-- `t` has the memory of `s` after the byte stores listed, the latest first: every byte is accounted for. -/
def State.Wrote (s t : State) (stores : List (Word × Byte)) : Prop :=
  ∀ b : Word, t.byteAt b = s.afterStores stores b

/-- The invariant: memory in canonical form, and WAITING or STOPPED only with I clear and no CLI delay
(47_control.md R302, R304; 60_exceptions.md R408). -/
def State.Inv (s : State) : Prop :=
  s.mem.wf = true ∧
    (s.runState = .running ∨ (s.ccr.i = false ∧ s.cliDelay = false))

/-- The boundary goes on to the next instruction: no reset, no interrupt recognised, RUNNING
(60_exceptions.md R417). -/
def State.Executes (s : State) : Prop :=
  s.resetLine = false ∧ s.recognised = none ∧ s.runState = .running

/-- `n` steps go by without a fault or a refusal. -/
def SafeFor : Nat → State → Prop
  | 0, _ => True
  | n + 1, s => ∃ t, step s = .next t ∧ SafeFor n t

end Sys2Proof.Machine
end

