-- ==== Sys2Proof/Certificates/Slice0/Obligations.lean ====
section
/-! DEFINITION. The statements for the provers, each from numbered rules of spec/. Results are written in
numbers, apart from the model's own formulas; a next state is written out whole, so that every statement about
an instruction is also its frame. Where an instruction stores, `State.Wrote` (Safety.lean) gives every byte of
memory, and the field `io` of the next state says which accesses the instruction makes and in which order, for
an I/O register may react to each (log 5). A docstring names the log entry a clause rests on where the rules
leave it open. -/

open Sys2Proof Sys2Proof.Machine

namespace Sys2Proof.Claims

/-! ## Numbers the statements are written in -/

/-- Whatever follows, these bytes decode to this instruction. -/
def Decodes (bytes : List Byte) (i : Instr) : Prop := ∀ rest, decode (bytes ++ rest) = .ok (i, rest)

/-- `next` of 00_scope.md R9. -/
def nextPc (s : State) (len : Nat) : Word := BitVec.ofNat 16 (s.pc.toNat + len)

/-- Where a branch of `len` bytes goes (45_branch.md R240). -/
def goesTo (s : State) (len : Nat) (rr : Byte) (taken : Bool) : Word :=
  BitVec.ofInt 16 (s.pc.toNat + len + if taken then rr.toInt else 0)

/-- H:X as a number. -/
def hxNat (s : State) : Nat := 256 * s.h.toNat + s.x.toNat

/-- The effective address as a number before reduction modulo 2^16 (30_encoding.md R88 to R94). -/
def address (m : MemRef) (s : State) : Nat :=
  match m with
  | .dir dd => dd.toNat
  | .ext hhll => hhll.toNat
  | .ix2 eeff => hxNat s + eeff.toNat
  | .ix1 ff => hxNat s + ff.toNat
  | .ix => hxNat s
  | .sp1 ff => s.sp.toNat + ff.toNat
  | .sp2 eeff => s.sp.toNat + eeff.toNat

/-- N and Z of an 8-bit result. -/
def nz8 (f : Ccr) (r : Nat) : Ccr := { f with n := decide (128 ≤ r), z := decide (r = 0) }

/-- N and Z of a 16-bit result. -/
def nz16 (f : Ccr) (r : Nat) : Ccr := { f with n := decide (32768 ≤ r), z := decide (r = 0) }

/-- V = 0, N and Z of an 8-bit result: a load, a store, a move, a logic operation, a test. -/
def moved8 (f : Ccr) (r : Nat) : Ccr := nz8 { f with v := false } r

/-- V = 0, N and Z of a 16-bit result. -/
def moved16 (f : Ccr) (r : Nat) : Ccr := nz16 { f with v := false } r

/-- An exact result that 8-bit two's complement cannot hold (42_arithmetic.md R168). -/
def outside8 (k : Int) : Bool := decide (k < -128 ∨ 127 < k)

/-- An exact result that 16-bit two's complement cannot hold. -/
def outside16 (k : Int) : Bool := decide (k < -32768 ∨ 32767 < k)

/-- The flags after `a + m + cin`. -/
def added (f : Ccr) (a m : Byte) (cin : Nat) : Ccr :=
  nz8 { f with
    v := outside8 (a.toInt + m.toInt + cin)
    h := decide (15 < a.toNat % 16 + m.toNat % 16 + cin)
    c := decide (255 < a.toNat + m.toNat + cin) } ((a.toNat + m.toNat + cin) % 256)

/-- The 8-bit difference `a - m - bin` modulo 256. -/
def difference (a m : Byte) (bin : Nat) : Nat := (a.toNat + 256 + 256 - m.toNat - bin) % 256

/-- The flags after `a - m - bin`. -/
def subtracted (f : Ccr) (a m : Byte) (bin : Nat) : Ccr :=
  nz8 { f with
    v := outside8 (a.toInt - m.toInt - bin)
    c := decide (a.toNat < m.toNat + bin) } (difference a m bin)

/-- Reads of these addresses, in this order. -/
def reads (addresses : List Word) : List Access := addresses.map .read

/-- A read-modify-write operation in numbers: the flags before and the byte's value give the new value and
the flags after. -/
abbrev ByteOp := Ccr → Nat → Nat × Ccr

/-- The three shapes of a read-modify-write instruction do `op`: on A, on X, and on memory, where the address
is read once and then stored to once; nothing else changes. -/
def ModifiesAs (onMemory : MemRef → Instr) (onAcc onIndex : Instr) (op : ByteOp) : Prop :=
  (∀ s, exec onAcc s = .next { s with
      a := BitVec.ofNat 8 (op s.ccr s.a.toNat).1, ccr := (op s.ccr s.a.toNat).2, pc := nextPc s 1 }) ∧
  (∀ s, exec onIndex s = .next { s with
      x := BitVec.ofNat 8 (op s.ccr s.x.toNat).1, ccr := (op s.ccr s.x.toNat).2, pc := nextPc s 1 }) ∧
  (∀ m s v, s.mem.wf = true → s.load (m.ea s) = .ok v → s.writable (m.ea s) = true →
    ∃ t, exec (onMemory m) s = .next t ∧
      t = { s with
        mem := t.mem, io := s.ioAfter [.read (m.ea s), .write (m.ea s) (BitVec.ofNat 8 (op s.ccr v.toNat).1)],
        ccr := (op s.ccr v.toNat).2, pc := nextPc s m.length } ∧
      s.Wrote t [(m.ea s, BitVec.ofNat 8 (op s.ccr v.toNat).1)])

/-- A shift or rotate: `r` is the result, `out` the bit that leaves into C, V = N xor C. -/
def shifted (f : Ccr) (r out : Nat) : Ccr :=
  nz8 { f with c := decide (out = 1), v := (decide (128 ≤ r) != decide (out = 1)) } r

/-- A two-byte branch: its bytes, and its effect on every state. -/
def BranchesWhen (op : Byte) (mk : Byte → Instr) (condition : State → Bool) : Prop :=
  (∀ rr, Decodes [op, rr] (mk rr)) ∧
  ∀ rr s, exec (mk rr) s = .next { s with pc := goesTo s 2 rr (condition s) }

/-- Every conditional branch on an order, in the state `t`, decides it: unsigned on `r` and `m`, signed on
`r'` and `m'`. -/
def DecidesOrder (t : State) (r m : Nat) (r' m' : Int) : Prop :=
  ∀ rr,
    exec (.beq rr) t = .next { t with pc := goesTo t 2 rr (decide (r = m)) } ∧
    exec (.bne rr) t = .next { t with pc := goesTo t 2 rr (decide (r ≠ m)) } ∧
    exec (.bhi rr) t = .next { t with pc := goesTo t 2 rr (decide (m < r)) } ∧
    exec (.bls rr) t = .next { t with pc := goesTo t 2 rr (decide (r ≤ m)) } ∧
    exec (.bhs rr) t = .next { t with pc := goesTo t 2 rr (decide (m ≤ r)) } ∧
    exec (.blo rr) t = .next { t with pc := goesTo t 2 rr (decide (r < m)) } ∧
    exec (.bge rr) t = .next { t with pc := goesTo t 2 rr (decide (m' ≤ r')) } ∧
    exec (.bgt rr) t = .next { t with pc := goesTo t 2 rr (decide (m' < r')) } ∧
    exec (.ble rr) t = .next { t with pc := goesTo t 2 rr (decide (r' ≤ m')) } ∧
    exec (.blt rr) t = .next { t with pc := goesTo t 2 rr (decide (r' < m')) }

/-- The correction and the carry of 42_arithmetic.md R175's table. -/
def daaEntry (c : Bool) (hi : Nat) (h : Bool) (lo : Nat) : Option (Nat × Bool) :=
  match c, h with
  | false, false =>
    if hi ≤ 9 ∧ lo ≤ 9 then some (0x00, false)
    else if hi ≤ 8 ∧ 10 ≤ lo then some (0x06, false)
    else if 10 ≤ hi ∧ lo ≤ 9 then some (0x60, true)
    else some (0x66, true)
  | false, true =>
    if lo ≤ 3 then (if hi ≤ 9 then some (0x06, false) else some (0x66, true)) else none
  | true, false =>
    if hi ≤ 2 then (if lo ≤ 9 then some (0x60, true) else some (0x66, true)) else none
  | true, true =>
    if hi ≤ 3 ∧ lo ≤ 3 then some (0x66, true) else none

/-- A byte of two decimal digits. -/
def isBcd (b : Byte) : Prop := b.toNat / 16 ≤ 9 ∧ b.toNat % 16 ≤ 9

/-- The number a byte of two decimal digits stands for. -/
def bcd (b : Byte) : Nat := 10 * (b.toNat / 16) + b.toNat % 16

/-- The second bytes that page 2 assigns (30_encoding.md R99): 13 in `$6x`, 14 each in `$Dx` and `$Ex`. -/
def onPage2 (b : Byte) : Bool :=
  (decide (b.toNat / 16 = 6) && [0, 1, 3, 4, 6, 7, 8, 9, 10, 11, 12, 13, 15].contains (b.toNat % 16)) ||
  ((decide (b.toNat / 16 = 13) || decide (b.toNat / 16 = 14)) &&
    [0, 1, 2, 3, 4, 5, 6, 7, 8, 9, 10, 11, 14, 15].contains (b.toNat % 16))

/-- The five bytes an exception stacks, the latest first (60_exceptions.md R410). -/
def frame (s : State) (ret : Word) : List (Word × Byte) :=
  [(s.sp - 4, s.ccr.toByte), (s.sp - 3, s.a), (s.sp - 2, s.x),
   (s.sp - 1, BitVec.ofNat 8 (ret.toNat / 256)), (s.sp, BitVec.ofNat 8 (ret.toNat % 256))]

/-- The accesses that stack the five bytes, in order. -/
def stacked (s : State) (ret : Word) : List Access := (frame s ret).reverse.map fun p => .write p.1 p.2

/-- The five bytes of `u` where an exception of `s` stacks them are those of `t`. -/
def sameFrame (s t u : State) : Prop :=
  u.byteAt s.sp = t.byteAt s.sp ∧ u.byteAt (s.sp - 1) = t.byteAt (s.sp - 1) ∧
    u.byteAt (s.sp - 2) = t.byteAt (s.sp - 2) ∧ u.byteAt (s.sp - 3) = t.byteAt (s.sp - 3) ∧
    u.byteAt (s.sp - 4) = t.byteAt (s.sp - 4)

/-- The five stack bytes take a store. -/
def frameWritable (s : State) : Prop :=
  s.writable s.sp = true ∧ s.writable (s.sp - 1) = true ∧ s.writable (s.sp - 2) = true ∧
    s.writable (s.sp - 3) = true ∧ s.writable (s.sp - 4) = true

/-- The five stack bytes are RAM. -/
def frameInRam (s : State) : Prop :=
  s.kindAt s.sp = .ram ∧ s.kindAt (s.sp - 1) = .ram ∧ s.kindAt (s.sp - 2) = .ram ∧
    s.kindAt (s.sp - 3) = .ram ∧ s.kindAt (s.sp - 4) = .ram

/-- The instructions that 10_state.md R34 says change no flag. -/
def changesNoFlag : Instr → Bool
  | .ais _ | .aix _ | .bclr _ _ | .bset _ _ | .bra _ | .brn _ | .bcc _ | .bcs _ | .beq _ | .bne _ | .bhi _
  | .bls _ | .bhcc _ | .bhcs _ | .bpl _ | .bmi _ | .bmc _ | .bms _ | .bih _ | .bil _ | .bge _ | .bgt _
  | .ble _ | .blt _ | .bsr _ | .cbeq _ _ | .cbeqa _ _ | .cbeqx _ _ | .dbnz _ _ | .dbnza _ | .dbnzx _
  | .jmp _ | .jsr _ | .nop | .nsa | .psha | .pshh | .pshx | .pula | .pulh | .pulx | .rsp | .rts | .tax
  | .tpa | .tsx | .txa | .txs => true
  | .brset _ _ _ | .brclr _ _ _ | .neg _ | .com _ | .lsr _ | .sthx _ | .ror _ | .asr _ | .lsl _
  | .rol _ | .dec _ | .inc _ | .tst _ | .clr _ | .nega | .mul | .coma | .lsra | .ldhx _ | .rora | .asra
  | .lsla | .rola | .deca | .inca | .tsta | .mov _ | .clra | .negx | .div | .comx | .lsrx | .rorx
  | .asrx | .lslx | .rolx | .decx | .incx | .tstx | .clrx | .cphx _ | .daa | .rti | .swi | .tap | .clrh
  | .stop | .wait | .clc | .sec | .cli | .sei | .sub _ | .cmp _ | .sbc _ | .cpx _ | .and _ | .bit _
  | .lda _ | .eor _ | .adc _ | .ora _ | .add _ | .ldx _ | .sta _ | .stx _ => false

/-- 10_state.md R29: ADD, ADC, MUL, TAP, RTI. -/
def writesHalfCarry : Instr → Bool
  | .add _ | .adc _ | .mul | .tap | .rti => true
  | .brset _ _ _ | .brclr _ _ _ | .bset _ _ | .bclr _ _ | .bra _ | .brn _ | .bhi _ | .bls _ | .bcc _
  | .bcs _ | .bne _ | .beq _ | .bhcc _ | .bhcs _ | .bpl _ | .bmi _ | .bmc _ | .bms _ | .bil _ | .bih _
  | .neg _ | .cbeq _ _ | .com _ | .lsr _ | .sthx _ | .ror _ | .asr _ | .lsl _ | .rol _ | .dec _
  | .dbnz _ _ | .inc _ | .tst _ | .clr _ | .nega | .cbeqa _ _ | .coma | .lsra | .ldhx _ | .rora | .asra
  | .lsla | .rola | .deca | .dbnza _ | .inca | .tsta | .mov _ | .clra | .negx | .cbeqx _ _ | .div
  | .comx | .lsrx | .rorx | .asrx | .lslx | .rolx | .decx | .dbnzx _ | .incx | .tstx | .clrx | .nsa
  | .cphx _ | .daa | .rts | .swi | .tpa | .pula | .psha | .pulx | .pshx | .pulh | .pshh | .clrh | .stop
  | .wait | .bge _ | .blt _ | .bgt _ | .ble _ | .txs | .tsx | .tax | .clc | .sec | .cli | .sei | .rsp
  | .nop | .txa | .sub _ | .cmp _ | .sbc _ | .cpx _ | .and _ | .bit _ | .lda _ | .ais _ | .eor _
  | .ora _ | .bsr _ | .ldx _ | .aix _ | .sta _ | .jmp _ | .jsr _ | .stx _ => false

/-- 10_state.md R30, 60_exceptions.md R406. -/
def writesMask : Instr → Bool
  | .sei | .cli | .tap | .rti | .swi | .stop | .wait => true
  | .brset _ _ _ | .brclr _ _ _ | .bset _ _ | .bclr _ _ | .bra _ | .brn _ | .bhi _ | .bls _ | .bcc _
  | .bcs _ | .bne _ | .beq _ | .bhcc _ | .bhcs _ | .bpl _ | .bmi _ | .bmc _ | .bms _ | .bil _ | .bih _
  | .neg _ | .cbeq _ _ | .com _ | .lsr _ | .sthx _ | .ror _ | .asr _ | .lsl _ | .rol _ | .dec _
  | .dbnz _ _ | .inc _ | .tst _ | .clr _ | .nega | .cbeqa _ _ | .mul | .coma | .lsra | .ldhx _ | .rora
  | .asra | .lsla | .rola | .deca | .dbnza _ | .inca | .tsta | .mov _ | .clra | .negx | .cbeqx _ _
  | .div | .comx | .lsrx | .rorx | .asrx | .lslx | .rolx | .decx | .dbnzx _ | .incx | .tstx | .clrx
  | .nsa | .cphx _ | .daa | .rts | .tpa | .pula | .psha | .pulx | .pshx | .pulh | .pshh | .clrh
  | .bge _ | .blt _ | .bgt _ | .ble _ | .txs | .tsx | .tax | .clc | .sec | .rsp | .nop | .txa | .sub _
  | .cmp _ | .sbc _ | .cpx _ | .and _ | .bit _ | .lda _ | .ais _ | .eor _ | .adc _ | .ora _ | .add _
  | .bsr _ | .ldx _ | .aix _ | .sta _ | .jmp _ | .jsr _ | .stx _ => false

/-- 10_state.md R23. -/
def writesSp : Instr → Bool
  | .txs | .ais _ | .rsp | .psha | .pshh | .pshx | .pula | .pulh | .pulx | .bsr _ | .jsr _ | .rts | .swi
  | .rti => true
  | .brset _ _ _ | .brclr _ _ _ | .bset _ _ | .bclr _ _ | .bra _ | .brn _ | .bhi _ | .bls _ | .bcc _
  | .bcs _ | .bne _ | .beq _ | .bhcc _ | .bhcs _ | .bpl _ | .bmi _ | .bmc _ | .bms _ | .bil _ | .bih _
  | .neg _ | .cbeq _ _ | .com _ | .lsr _ | .sthx _ | .ror _ | .asr _ | .lsl _ | .rol _ | .dec _
  | .dbnz _ _ | .inc _ | .tst _ | .clr _ | .nega | .cbeqa _ _ | .mul | .coma | .lsra | .ldhx _ | .rora
  | .asra | .lsla | .rola | .deca | .dbnza _ | .inca | .tsta | .mov _ | .clra | .negx | .cbeqx _ _
  | .div | .comx | .lsrx | .rorx | .asrx | .lslx | .rolx | .decx | .dbnzx _ | .incx | .tstx | .clrx
  | .nsa | .cphx _ | .daa | .tap | .tpa | .clrh | .stop | .wait | .bge _ | .blt _ | .bgt _ | .ble _
  | .tsx | .tax | .clc | .sec | .cli | .sei | .nop | .txa | .sub _ | .cmp _ | .sbc _ | .cpx _ | .and _
  | .bit _ | .lda _ | .eor _ | .adc _ | .ora _ | .add _ | .ldx _ | .aix _ | .sta _ | .jmp _ | .stx _ => false

/-- 10_state.md R22: H changes only where H:X is written whole, by CLRH and PULH, and by DIV. -/
def writesH : Instr → Bool
  | .aix _ | .ldhx _ | .tsx | .mov _ | .cbeq _ _ | .clrh | .pulh | .div => true
  | .brset _ _ _ | .brclr _ _ _ | .bset _ _ | .bclr _ _ | .bra _ | .brn _ | .bhi _ | .bls _ | .bcc _
  | .bcs _ | .bne _ | .beq _ | .bhcc _ | .bhcs _ | .bpl _ | .bmi _ | .bmc _ | .bms _ | .bil _ | .bih _
  | .neg _ | .com _ | .lsr _ | .sthx _ | .ror _ | .asr _ | .lsl _ | .rol _ | .dec _ | .dbnz _ _
  | .inc _ | .tst _ | .clr _ | .nega | .cbeqa _ _ | .mul | .coma | .lsra | .rora | .asra | .lsla
  | .rola | .deca | .dbnza _ | .inca | .tsta | .clra | .negx | .cbeqx _ _ | .comx | .lsrx | .rorx
  | .asrx | .lslx | .rolx | .decx | .dbnzx _ | .incx | .tstx | .clrx | .nsa | .cphx _ | .daa | .rti
  | .rts | .swi | .tap | .tpa | .pula | .psha | .pulx | .pshx | .pshh | .stop | .wait | .bge _ | .blt _
  | .bgt _ | .ble _ | .txs | .tax | .clc | .sec | .cli | .sei | .rsp | .nop | .txa | .sub _ | .cmp _
  | .sbc _ | .cpx _ | .and _ | .bit _ | .lda _ | .ais _ | .eor _ | .adc _ | .ora _ | .add _ | .bsr _
  | .ldx _ | .sta _ | .jmp _ | .jsr _ | .stx _ => false

/-- The instructions with a store: the read-modify-write group on memory, CLR, DBNZ, the bit writes, the
stores, MOV, the pushes, the calls and SWI. -/
def stores : Instr → Bool
  | .neg _ | .com _ | .lsr _ | .ror _ | .asr _ | .lsl _ | .rol _ | .dec _ | .inc _ | .clr _ | .dbnz _ _
  | .bset _ _ | .bclr _ _ | .sta _ | .stx _ | .sthx _ | .mov _ | .psha | .pshh | .pshx | .bsr _ | .jsr _
  | .swi => true
  | .brset _ _ _ | .brclr _ _ _ | .bra _ | .brn _ | .bhi _ | .bls _ | .bcc _ | .bcs _ | .bne _ | .beq _
  | .bhcc _ | .bhcs _ | .bpl _ | .bmi _ | .bmc _ | .bms _ | .bil _ | .bih _ | .cbeq _ _ | .tst _
  | .nega | .cbeqa _ _ | .mul | .coma | .lsra | .ldhx _ | .rora | .asra | .lsla | .rola | .deca
  | .dbnza _ | .inca | .tsta | .clra | .negx | .cbeqx _ _ | .div | .comx | .lsrx | .rorx | .asrx
  | .lslx | .rolx | .decx | .dbnzx _ | .incx | .tstx | .clrx | .nsa | .cphx _ | .daa | .rti | .rts
  | .tap | .tpa | .pula | .pulx | .pulh | .clrh | .stop | .wait | .bge _ | .blt _ | .bgt _ | .ble _
  | .txs | .tsx | .tax | .clc | .sec | .cli | .sei | .rsp | .nop | .txa | .sub _ | .cmp _ | .sbc _
  | .cpx _ | .and _ | .bit _ | .lda _ | .ais _ | .eor _ | .adc _ | .ora _ | .add _ | .ldx _ | .aix _
  | .jmp _ => false

end Sys2Proof.Claims

open Sys2Proof.Claims

/-! ## Encoding -/

/-- The bytes of every well-formed instruction, whatever follows them, decode to it (30_encoding.md R80, R81,
R98, R99, R111). Opcodes the spec marks as general knowledge are among them (log 19, 20). -/
def Obligations.DecodeOfEncode : Prop :=
  ∀ (i : Instr) (rest : List Byte), i.wf = true → decode (encode i ++ rest) = .ok (i, rest)

/-- What decodes is well formed and the bytes read are its encoding, as long as its length says, so no two
encodings share an instruction and no byte value is dropped (30_encoding.md R81, R98, R99, R105). -/
def Obligations.DecodedIsEncoded : Prop :=
  ∀ (bytes : List Byte) (i : Instr) (rest : List Byte), decode bytes = .ok (i, rest) →
    i.wf = true ∧ bytes = encode i ++ rest ∧ (encode i).length = i.length

/-- Words written out from 30_encoding.md R111 decode to their instructions, one in each family; that `$9E $D6`
and `$9E $60` are LDA and NEG is PRESUMED by the spec (general knowledge, log 19), and so is the order of the two
address bytes of `$4E` (log 20). -/
def Obligations.SampleWordsDecode : Prop :=
  Decodes [0xA6, 0x80] (.lda (.imm 0x80)) ∧ Decodes [0x9E, 0xD6, 0x01, 0x00] (.lda (.mem (.sp2 0x0100))) ∧
  Decodes [0x4E, 0x10, 0x20] (.mov (.dd 0x10 0x20)) ∧ Decodes [0xA7, 0xFE] (.ais 0xFE) ∧
  Decodes [0xD9, 0x12, 0x34] (.adc (.mem (.ix2 0x1234))) ∧ Decodes [0x9E, 0x60, 0x05] (.neg (.sp1 0x05)) ∧
  Decodes [0x39, 0x50] (.rol (.dir 0x50)) ∧ Decodes [0x0E, 0x40, 0x80] (.brset 7 0x40 0x80) ∧
  Decodes [0x61, 0x02, 0x10] (.cbeq (.ix1Inc 0x02) 0x10) ∧ Decodes [0x92, 0x10] (.bgt 0x10) ∧
  Decodes [0xCD, 0x12, 0x34] (.jsr (.ext 0x1234)) ∧ Decodes [0x83] .swi

/-- The decoder rejects exactly the unassigned opcodes: six on page 1, and on page 2 every second byte but
the 41 (30_encoding.md R99, R104). That exactly these 41, and `$84`, are assigned is PRESUMED: the spec has 38
of the 41 and TAP from general knowledge (log 19). -/
def Obligations.UnassignedOpcodesRejected : Prop :=
  (∀ b0 ∈ ([0x32, 0x3E, 0x82, 0x8D, 0x96, 0xAC] : List Byte), ∀ rest,
    decode (b0 :: rest) = .error (.illegalOpcode b0 none)) ∧
  (∀ b1 rest, onPage2 b1 = false → decode (0x9E :: b1 :: rest) = .error (.illegalOpcode 0x9E (some b1))) ∧
  (∀ bytes b0 b1, decode bytes = .error (.illegalOpcode b0 b1) →
    (b1 = none ∧ b0 ∈ ([0x32, 0x3E, 0x82, 0x8D, 0x96, 0xAC] : List Byte)) ∨
    (b0 = 0x9E ∧ ∃ c, b1 = some c ∧ onPage2 c = false))

/-! ## Memory and operands -/

/-- Two memories in canonical form that read alike at every address are the same list (the model's choice of
a representation for the 64 KiB of 20_memory.md R50, log 4). -/
def Obligations.CanonicalMemoryIsUnique : Prop :=
  ∀ m n : Memory, m.wf = true → n.wf = true → (∀ a, m.read a = n.read a) → m = n

/-- A store to an address that takes one changes that byte and nothing else; RAM then reads it back, ROM
ignores it, an I/O register's device alone sees it; the canonical form is kept; ROM whose writes fault stops the
machine. A load changes nothing and gives RAM's or ROM's byte, or what the device gives
(20_memory.md R50, R63, R65; 00_scope.md R6; the kinds of MEMMAP and the form of a device's behaviour are the
model's reading of it, log 5, 6). -/
def Obligations.StoreThenLoad : Prop :=
  (∀ (s : State) (a : Word) (v : Byte), s.mem.wf = true → s.writable a = true →
    ∃ t, s.store a v = .ok t ∧ t = { s with mem := t.mem, io := t.io } ∧ t.mem.wf = true ∧
      s.Wrote t [(a, v)] ∧ (s.kindAt a = .ram → t.load a = .ok v) ∧ (s.kindAt a ≠ .ram → t.mem = s.mem) ∧
      (∀ id, s.kindAt a = .device id → t.io = Config.deviceAfterWrite id s.io s.draws a v) ∧
      ((∀ id, s.kindAt a ≠ .device id) → t.io = s.io)) ∧
  (∀ (s : State) (a : Word) (v : Byte), s.kindAt a = .romFaulting → s.store a v = .error (.romWrite a)) ∧
  (∀ (s : State) (a : Word), s.kindAt a = .ram ∨ s.kindAt a = .rom ∨ s.kindAt a = .romFaulting →
    s.load a = .ok (s.byteAt a) ∧ s.afterRead a = s) ∧
  (∀ (s : State) (a : Word) (id : Nat), s.kindAt a = .device id →
    s.load a = .ok (Config.deviceRead id s.io s.draws a) ∧
    s.afterRead a = { s with io := Config.deviceAfterRead id s.io s.draws a })

/-- A 16-bit value lies with its high byte at the address and its low byte at the next one modulo 2^16
(20_memory.md R51, R55, R60). -/
def Obligations.WordsAreBigEndian : Prop :=
  ∀ (s : State) (a w : Word), s.mem.wf = true → s.kindAt a = .ram → s.kindAt (a + 1) = .ram →
    ∃ t, s.storeWord a w = .ok t ∧ t = { s with mem := t.mem } ∧ t.loadWord a = .ok w ∧
      (t.byteAt a).toNat = w.toNat / 256 ∧ (t.byteAt (a + 1)).toNat = w.toNat % 256 ∧
      s.Wrote t [(a + 1, BitVec.ofNat 8 (w.toNat % 256)), (a, BitVec.ofNat 8 (w.toNat / 256))]

/-- Every addressing mode's effective address, offsets unsigned and sums modulo 2^16, and the value of every
source operand in RAM, ROM or an I/O register, with the reads that getting it makes (30_encoding.md R86 to R96;
20_memory.md R51, R60; 40_load_store_move.md R118, R123). That the offsets are unsigned is the spec's decision
D20 (log 38), the modulus its decision D2 (log 24). -/
def Obligations.EffectiveAddresses : Prop :=
  (∀ (m : MemRef) s, (m.ea s).toNat = address m s % 65536) ∧
  (∀ dd s, ((CbeqRef.dir dd).ea s).toNat = dd.toNat) ∧
  (∀ ff s, ((CbeqRef.ix1Inc ff).ea s).toNat = (hxNat s + ff.toNat) % 65536) ∧
  (∀ s, (CbeqRef.ixInc.ea s).toNat = hxNat s) ∧
  (∀ ff s, ((CbeqRef.sp1 ff).ea s).toNat = (s.sp.toNat + ff.toNat) % 65536) ∧
  (∀ ii s, (Src.imm ii).value s = .ok ii ∧ (Src.imm ii).accesses s = []) ∧
  (∀ m s, s.kindAt (m.ea s) = .ram ∨ s.kindAt (m.ea s) = .rom ∨ s.kindAt (m.ea s) = .romFaulting →
    (Src.mem m).value s = .ok (s.byteAt (m.ea s))) ∧
  (∀ m s id, s.kindAt (m.ea s) = .device id →
    (Src.mem m).value s = .ok (Config.deviceRead id s.io s.draws (m.ea s))) ∧
  (∀ m s, (Src.mem m).accesses s = reads [m.ea s]) ∧
  (∀ v s, (WideSrc.imm16 v).value s = .ok v ∧ (WideSrc.imm16 v).accesses = []) ∧
  (∀ dd s hi lo, s.Reads [(BitVec.ofNat 16 dd.toNat, hi), (BitVec.ofNat 16 (dd.toNat + 1), lo)] →
    (WideSrc.dir dd).value s = .ok (BitVec.ofNat 16 (256 * hi.toNat + lo.toNat))) ∧
  (∀ dd, (WideSrc.dir dd).accesses = reads [BitVec.ofNat 16 dd.toNat, BitVec.ofNat 16 (dd.toNat + 1)])

/-! ## Steps -/

/-- Where the bytes at PC decode to an instruction and the boundary goes on to it, the step is that
instruction's `exec`, on the state with the CLI delay cleared, the model's count of steps advanced and the bytes
of the instruction, no more, read in ascending order, which only an I/O register can notice
(60_exceptions.md R407, R408; 20_memory.md R70, R71, the spec's decision D6, log 25; the count is the model's own,
log 14). -/
def Obligations.StepRunsDecodedInstruction : Prop :=
  ∀ (s : State) (i : Instr) (bytes : List Byte), s.Executes → decode bytes = .ok (i, []) →
    (∀ k b, bytes[k]? = some b → (s.tick.afterFetch k).fetchByte (s.pc + BitVec.ofNat 16 k) = .ok b) →
    step s = exec i { s with
      draws := s.draws + 1, cliDelay := false, io := (s.tick.afterFetch bytes.length).io } ∧
    (∀ k, (s.tick.afterFetch k).io =
      s.tick.ioAfter (reads ((List.range k).map fun j => s.pc + BitVec.ofNat 16 j))) ∧
    ((∀ k, k < bytes.length → ∀ id, s.kindAt (s.pc + BitVec.ofNat 16 k) ≠ .device id) →
      (s.tick.afterFetch bytes.length).io = s.io)

/-- An unassigned opcode at PC stops the machine with IllegalOpcode, the address and the opcode bytes, or, with
ILLEGAL_OPCODE = reset, is a reset entry (30_encoding.md R104, 60_exceptions.md R418; log 7). -/
def Obligations.IllegalOpcodeStops : Prop :=
  ∀ (s : State) (b0 : Byte) (b1 : Option Byte), s.Executes →
    s.tick.clearDelay.fetch = .ok (.illegal b0 b1) →
    (s.params.illegalOpcode = .fault → step s = .fault (.illegalOpcode s.pc b0 b1)) ∧
    (s.params.illegalOpcode = .reset →
      step s = outcome (s.tick.clearDelay.afterFetch (if b1.isSome then 2 else 1)).resetEntry)

/-- The entry of a recognised interrupt: PC of the next instruction, X, A and the CCR byte stacked, I set
(general knowledge, log 22), PC from the vector, RUNNING; H and everything else kept
(60_exceptions.md R409 to R413, R423). That the entry is a step of its own is log 9. -/
def Obligations.InterruptEntry : Prop :=
  ∀ (s : State) (vec : Word), s.resetLine = false → s.recognised = some vec → s.mem.wf = true →
    frameWritable s → s.readable vec = true → s.readable (vec + 1) = true →
    ∃ t, step s = .next t ∧ s.Wrote t (frame s s.pc) ∧
      State.loadWord { t with io := s.tick.ioAfter (stacked s s.pc) } vec = .ok t.pc ∧
      t = { s with
        mem := t.mem, io := s.tick.ioAfter (stacked s s.pc ++ reads [vec, vec + 1]), sp := s.sp - 5,
        ccr := { s.ccr with i := true }, pc := t.pc, runState := .running, draws := s.draws + 1 }

/-- When an interrupt is recognised and which: never with I set or the CLI delay pending; the pin, low, before
the further sources; these in list order; only the pin ends STOP (60_exceptions.md R406, R407, R417, R422;
the order is the spec's decision, log 27, the level-sensitive pin log 10, the list log 11). -/
def Obligations.InterruptRecognition : Prop :=
  ∀ (s : State) (vec : Word), s.recognised = some vec ↔
    s.cliDelay = false ∧ s.ccr.i = false ∧
      ((s.irqPin = false ∧ vec = s.params.vecIrq) ∨
       (s.irqPin = true ∧ s.runState ≠ .stopped ∧
        ∃ before q after, s.sources = before ++ q :: after ∧ (∀ r ∈ before, r.pending = false) ∧
          q.pending = true ∧ q.vector = vec))

/-- CLI clears I and sets the delay; the boundary after it recognises nothing; the instruction executed there
ends the delay unless it is CLI again (44_bit_ccr.md R225, 10_state.md R42, 60_exceptions.md R408; that every
CLI sets it is log 26). -/
def Obligations.CliDelaysOneInstruction : Prop :=
  Decodes [0x9A] .cli ∧
  (∀ s, exec .cli s = .next { s with
    ccr := { s.ccr with i := false }, cliDelay := true, pc := nextPc s 1 }) ∧
  ∀ s t : State, s.Executes → s.tick.clearDelay.fetch = .ok (.instr .cli 1) → step s = .next t →
    t.Executes ∧
    ∀ u, step t = .next u →
      (u.cliDelay = true → t.tick.clearDelay.fetch = .ok (.instr .cli 1)) ∧
      (u.cliDelay = false → u.ccr.i = false → u.irqPin = false → u.resetLine = false →
        u.boundaryEvent = .interrupt u.params.vecIrq)

/-- WAITING or STOPPED with no reset and nothing recognised, the machine goes on for ever and nothing but the
model's count of steps changes (10_state.md R43, 60_exceptions.md R421, R422, 93_implementation_defined.md U9;
log 34). -/
def Obligations.LowPowerIdlesForEver : Prop :=
  ∀ s : State, s.runState ≠ .running → s.resetLine = false → s.recognised = none → s.cliDelay = false →
    step s = .next { s with draws := s.draws + 1 } ∧ ∀ n, SafeFor n s

/-- A reset entry: RUNNING, no CLI delay, I set, SP and H from the parameters, PC from the reset vector; A, X
and the other flags may be anything; the devices are reset first; memory and the rest are kept and nothing is
stacked (70_reset_and_hazards.md R440, R441; log 3, 12, 13, 40). -/
def Obligations.ResetEntry : Prop :=
  ∀ s : State, s.resetLine = true → s.readable s.params.vecReset = true →
    s.readable (s.params.vecReset + 1) = true →
    ∃ t, step s = .next t ∧
      State.loadWord { s.tick with io := Config.deviceAfterReset s.io (s.draws + 1) } s.params.vecReset =
        .ok t.pc ∧
      t = { s with
        io := State.ioAfter { s.tick with io := Config.deviceAfterReset s.io (s.draws + 1) }
          (reads [s.params.vecReset, s.params.vecReset + 1]),
        a := t.a, x := t.x, h := s.params.resetH, sp := s.params.resetSp, pc := t.pc,
        ccr := { t.ccr with i := true }, cliDelay := false, runState := .running, draws := s.draws + 1 }

/-- The state right after reset: H, SP, I and PC as 70_reset_and_hazards.md R440 and 10_state.md R44 give them
(general knowledge, log 3, 33), and the model's own zeros for A, X and V, H, N, Z, C (log 1, 2). -/
def Obligations.ResetStateValues : Prop :=
  State.reset.h = 0x00 ∧ State.reset.sp = 0x00FF ∧ State.reset.ccr.i = true ∧
    State.reset.cliDelay = false ∧ State.reset.runState = .running ∧
    State.reset.loadWord 0xFFFE = .ok State.reset.pc ∧
    State.reset.a = 0x00 ∧ State.reset.x = 0x00 ∧
    State.reset.ccr = { v := false, h := false, i := true, n := false, z := false, c := false }

/-- The state after reset meets the invariant. -/
def Obligations.ResetSatisfiesInv : Prop := State.reset.Inv

/-- Every step keeps the invariant, from every state that meets it: memory in canonical form, and WAITING or
STOPPED only with I clear and no CLI delay (20_memory.md R50; 47_control.md R302, R304; 60_exceptions.md R407,
R408). -/
def Obligations.StepKeepsInv : Prop := ∀ s t : State, s.Inv → step s = .next t → t.Inv

/-- No step changes the platform's parameters or the inputs, which the environment drives (00_scope.md R6,
10_state.md R40, R41; 60_exceptions.md R424, R425); each advances the model's count by one (log 14). -/
def Obligations.StepKeepsPlatform : Prop :=
  ∀ s t : State, step s = .next t →
    t.params = s.params ∧ t.irqPin = s.irqPin ∧ t.sources = s.sources ∧ t.resetLine = s.resetLine ∧
      t.draws = s.draws + 1

/-- WAITING is entered only by WAIT and STOPPED only by STOP; either is left only by reset or a recognised
interrupt (10_state.md R43, 60_exceptions.md R421, R422, R423). -/
def Obligations.RunStateChanges : Prop :=
  ∀ s t : State, step s = .next t →
    (s.runState = .running → t.runState = .waiting → s.tick.clearDelay.fetch = .ok (.instr .wait 1)) ∧
    (s.runState = .running → t.runState = .stopped → s.tick.clearDelay.fetch = .ok (.instr .stop 1)) ∧
    (s.runState ≠ .running → t.runState ≠ s.runState →
      t.runState = .running ∧ (s.resetLine = true ∨ ∃ vec, s.recognised = some vec))

/-- A step stops only for an unassigned opcode at PC, an unimplemented address or a write to ROM that MEMMAP
makes fault, each under its name; no step is refused: there is no other synchronous exception
(60_exceptions.md R418, R419, R420, R427; log 5, 6, 7). -/
def Obligations.StepStopsOnlyFor : Prop :=
  (∀ (s : State) (f : Fault), step s = .fault f →
    (∃ b0 b1, f = .illegalOpcode s.pc b0 b1 ∧ s.params.illegalOpcode = .fault ∧
      s.tick.clearDelay.fetch = .ok (.illegal b0 b1)) ∨
    (∃ a, f = .unimplementedAccess a ∧ s.kindAt a = .unimplemented ∧ s.params.unimplAccess = .fault) ∨
    (∃ a, f = .romWrite a ∧ s.kindAt a = .romFaulting)) ∧
  (∀ (s : State) (r : Refusal), step s ≠ .refused r)

/-- Where no address faults every instruction completes in every state, on every operand; so it is with MEMMAP
all RAM, and with RAM, ROM that ignores writes and I/O registers in any arrangement (60_exceptions.md R419, R420,
R427; 10_state.md R36; 92_eei_decisions.md D1; log 5). -/
def Obligations.ExecCompletesOnRam : Prop :=
  (∀ (i : Instr) (s : State), s.Accessible → ∃ t, exec i s = .next t) ∧
  (∀ s : State, s.AllRam → s.Accessible) ∧
  ∀ s : State, (∀ a, s.kindAt a = .ram ∨ s.kindAt a = .rom ∨ ∃ id, s.kindAt a = .device id) → s.Accessible

/-! ## What no instruction does -/

/-- The instructions that 10_state.md R34 lists as changing no flag change none. -/
def Obligations.FlagFreeInstructions : Prop :=
  ∀ (i : Instr) (s t : State), changesNoFlag i = true → exec i s = .next t → t.ccr = s.ccr

/-- Only ADD, ADC, MUL, TAP and RTI change the half carry; only SEI, CLI, TAP, RTI, SWI, STOP and WAIT change
I, and of these SEI and SWI set it, CLI, STOP and WAIT clear it (10_state.md R29, R30; 60_exceptions.md R406). -/
def Obligations.FlagWriters : Prop :=
  ∀ (i : Instr) (s t : State), exec i s = .next t →
    (writesHalfCarry i = false → t.ccr.h = s.ccr.h) ∧
    (writesMask i = false → t.ccr.i = s.ccr.i) ∧
    (i = .sei ∨ i = .swi → t.ccr.i = true) ∧ (i = .cli ∨ i = .stop ∨ i = .wait → t.ccr.i = false)

/-- SP changes only by the instructions 10_state.md R23 lists, H only by those of R22, the CLI delay only by
CLI (R42), the run state only by WAIT and STOP (R43). -/
def Obligations.RegisterWriters : Prop :=
  ∀ (i : Instr) (s t : State), exec i s = .next t →
    (writesSp i = false → t.sp = s.sp) ∧ (writesH i = false → t.h = s.h) ∧
    (i ≠ .cli → t.cliDelay = s.cliDelay) ∧ (i ≠ .wait → i ≠ .stop → t.runState = s.runState)

/-- An instruction without a store leaves all of memory as it was (20_memory.md R61; 40_load_store_move.md
R118; 45_branch.md R240). -/
def Obligations.NonStoringInstructions : Prop :=
  ∀ (i : Instr) (s t : State), stores i = false → exec i s = .next t → t.mem = s.mem

/-! ## Load, store, clear, move -/

/-- LDA, LDX and LDHX in every form: the register, N and Z from it, V = 0 (PRESUMED by the spec on the
inherited pages, log 18); the operand's byte is read once, LDHX's high byte first (log 23); nothing else
(40_load_store_move.md R122, R123, R124). -/
def Obligations.LoadResult : Prop :=
  (∀ (o : Src) (s : State) (v : Byte), o.value s = .ok v →
    exec (.lda o) s = .next { s with
      io := s.ioAfter (o.accesses s), a := v, ccr := moved8 s.ccr v.toNat, pc := nextPc s o.length } ∧
    exec (.ldx o) s = .next { s with
      io := s.ioAfter (o.accesses s), x := v, ccr := moved8 s.ccr v.toNat, pc := nextPc s o.length }) ∧
  (∀ (w : WideSrc) (s : State) (v : Word), w.value s = .ok v →
    exec (.ldhx w) s = .next { s with
      io := s.ioAfter w.accesses,
      h := BitVec.ofNat 8 (v.toNat / 256), x := BitVec.ofNat 8 (v.toNat % 256),
      ccr := moved16 s.ccr v.toNat, pc := nextPc s w.length })

/-- STA, STX and STHX in every form: the bytes stored, every other byte kept, N and Z from the value stored,
V = 0 (log 18); nothing is read, and STHX stores H first (log 23) (40_load_store_move.md R126, R127, R128). -/
def Obligations.StoreResult : Prop :=
  (∀ (m : MemRef) (s : State), s.mem.wf = true → s.writable (m.ea s) = true →
    (∃ t, exec (.sta m) s = .next t ∧
      t = { s with
        mem := t.mem, io := s.ioAfter [.write (m.ea s) s.a], ccr := moved8 s.ccr s.a.toNat,
        pc := nextPc s m.length } ∧
      s.Wrote t [(m.ea s, s.a)]) ∧
    (∃ t, exec (.stx m) s = .next t ∧
      t = { s with
        mem := t.mem, io := s.ioAfter [.write (m.ea s) s.x], ccr := moved8 s.ccr s.x.toNat,
        pc := nextPc s m.length } ∧
      s.Wrote t [(m.ea s, s.x)])) ∧
  (∀ (dd : Byte) (s : State), s.mem.wf = true → s.writable (zext16 dd) = true →
    s.writable (zext16 dd + 1) = true →
    ∃ t, exec (.sthx dd) s = .next t ∧
      t = { s with
        mem := t.mem, io := s.ioAfter [.write (zext16 dd) s.h, .write (zext16 dd + 1) s.x],
        ccr := moved16 s.ccr (hxNat s), pc := nextPc s 2 } ∧
      s.Wrote t [(zext16 dd + 1, s.x), (zext16 dd, s.h)])

/-- CLR in every form, CLRA, CLRX and CLRH: a zero, V = 0 (log 18), N = 0, Z = 1, all else kept; CLR of memory
does not read it (the spec's decision D4, log 23)
(40_load_store_move.md R120, R121). -/
def Obligations.ClearResult : Prop :=
  (∀ (m : MemRef) (s : State), s.mem.wf = true → s.writable (m.ea s) = true →
    ∃ t, exec (.clr m) s = .next t ∧
      t = { s with
        mem := t.mem, io := s.ioAfter [.write (m.ea s) 0x00], ccr := moved8 s.ccr 0,
        pc := nextPc s m.length } ∧
      s.Wrote t [(m.ea s, 0x00)]) ∧
  (∀ s, exec .clra s = .next { s with a := 0x00, ccr := moved8 s.ccr 0, pc := nextPc s 1 }) ∧
  (∀ s, exec .clrx s = .next { s with x := 0x00, ccr := moved8 s.ccr 0, pc := nextPc s 1 }) ∧
  (∀ s, exec .clrh s = .next { s with h := 0x00, ccr := moved8 s.ccr 0, pc := nextPc s 1 })

/-- MOV in its four forms: the byte of the source read once and stored at the target, H:X one more (modulo 2^16)
where the form increments it, N and Z from the byte, V = 0 (40_load_store_move.md R125; the order of the two
address bytes of DD is PRESUMED, log 20). -/
def Obligations.MovResult : Prop :=
  (∀ src dst s, (MovForm.dd src dst).source s = s.load (zext16 src) ∧
    (MovForm.dd src dst).reads s = reads [zext16 src] ∧
    (MovForm.dd src dst).target s = zext16 dst ∧ (MovForm.dd src dst).increments = false) ∧
  (∀ src s, (MovForm.dixInc src).source s = s.load (zext16 src) ∧
    (MovForm.dixInc src).reads s = reads [zext16 src] ∧
    (MovForm.dixInc src).target s = MemRef.ix.ea s ∧ (MovForm.dixInc src).increments = true) ∧
  (∀ ii dst s, (MovForm.imd ii dst).source s = .ok ii ∧ (MovForm.imd ii dst).reads s = [] ∧
    (MovForm.imd ii dst).target s = zext16 dst ∧ (MovForm.imd ii dst).increments = false) ∧
  (∀ dst s, (MovForm.ixIncD dst).source s = s.load (MemRef.ix.ea s) ∧
    (MovForm.ixIncD dst).reads s = reads [MemRef.ix.ea s] ∧
    (MovForm.ixIncD dst).target s = zext16 dst ∧ (MovForm.ixIncD dst).increments = true) ∧
  ∀ (f : MovForm) (s : State) (v : Byte), s.mem.wf = true → f.source s = .ok v →
    s.writable (f.target s) = true →
    ∃ t, exec (.mov f) s = .next t ∧
      t = { s with
        mem := t.mem, io := s.ioAfter (f.reads s ++ [.write (f.target s) v]),
        h := BitVec.ofNat 8 ((hxNat s + f.increments.toNat) / 256),
        x := BitVec.ofNat 8 ((hxNat s + f.increments.toNat) % 256), ccr := moved8 s.ccr v.toNat,
        pc := nextPc s f.length } ∧
      s.Wrote t [(f.target s, v)]

/-! ## Transfers and the stack -/

/-- TAX, TPA, TSX, TXA and TXS: the one register each writes; no flag (41_transfer_stack.md R150 to R154). -/
def Obligations.TransferResult : Prop :=
  Decodes [0x97] .tax ∧ Decodes [0x85] .tpa ∧ Decodes [0x95] .tsx ∧ Decodes [0x9F] .txa ∧
  Decodes [0x94] .txs ∧
  ∀ s : State,
    exec .tax s = .next { s with x := s.a, pc := nextPc s 1 } ∧
    exec .tpa s = .next { s with
      a := BitVec.ofNat 8 (128 * s.ccr.v.toNat + 64 + 32 + 16 * s.ccr.h.toNat + 8 * s.ccr.i.toNat +
        4 * s.ccr.n.toNat + 2 * s.ccr.z.toNat + s.ccr.c.toNat),
      pc := nextPc s 1 } ∧
    exec .tsx s = .next { s with
      h := BitVec.ofNat 8 ((s.sp.toNat + 1) / 256), x := BitVec.ofNat 8 ((s.sp.toNat + 1) % 256),
      pc := nextPc s 1 } ∧
    exec .txa s = .next { s with a := s.x, pc := nextPc s 1 } ∧
    exec .txs s = .next { s with sp := BitVec.ofNat 16 (hxNat s + 65535), pc := nextPc s 1 }

/-- TAP: the six flags from bits 7, 4, 3, 2, 1, 0 of A, with no CLI delay (log 26); a TPA after it gives A with
bits 6 and 5 set (41_transfer_stack.md R149, 10_state.md R27; the opcode is PRESUMED by the spec, log 19; the
two constant bits log 39). -/
def Obligations.TapResult : Prop :=
  (∀ s : State, exec .tap s = .next { s with
    ccr :=
      { v := s.a.toNat.testBit 7, h := s.a.toNat.testBit 4, i := s.a.toNat.testBit 3,
        n := s.a.toNat.testBit 2, z := s.a.toNat.testBit 1, c := s.a.toNat.testBit 0 },
    pc := nextPc s 1 }) ∧
  (∀ s t : State, exec .tap s = .next t →
    exec .tpa t = .next { t with a := s.a ||| 0x60, pc := nextPc t 1 })

/-- RSP: $00FF, or with RSP_CLEARS_SPH false only the low byte of SP becomes $FF (41_transfer_stack.md R148;
the default is log 21). -/
def Obligations.RspResult : Prop :=
  (∀ s : State, s.params.rspClearsSph = true →
    exec .rsp s = .next { s with sp := 0x00FF, pc := nextPc s 1 }) ∧
  (∀ s : State, s.params.rspClearsSph = false →
    exec .rsp s = .next { s with
      sp := BitVec.ofNat 16 (256 * (s.sp.toNat / 256) + 255), pc := nextPc s 1 })

/-- AIS and AIX: SP, or H:X as 16 bits, plus the signed byte, modulo 2^16; no flag
(41_transfer_stack.md R140, R141). -/
def Obligations.PointerAdjustResult : Prop :=
  (∀ ii, Decodes [0xA7, ii] (.ais ii)) ∧ (∀ ii, Decodes [0xAF, ii] (.aix ii)) ∧
  (∀ (ii : Byte) (s : State), ∃ t, exec (.ais ii) s = .next t ∧
    t = { s with sp := t.sp, pc := nextPc s 2 } ∧
    (t.sp.toNat : Int) = (s.sp.toNat + ii.toInt) % 65536) ∧
  (∀ (ii : Byte) (s : State), ∃ t, exec (.aix ii) s = .next t ∧
    t = { s with h := t.h, x := t.x, pc := nextPc s 2 } ∧
    (hxNat t : Int) = (hxNat s + ii.toInt) % 65536)

/-- PSHA, PSHH, PSHX store the register's byte at SP and lower SP; PULA, PULH, PULX raise SP and load the
register from it; no flag changes (41_transfer_stack.md R142 to R147). -/
def Obligations.StackResult : Prop :=
  Decodes [0x87] .psha ∧ Decodes [0x8B] .pshh ∧ Decodes [0x89] .pshx ∧
  Decodes [0x86] .pula ∧ Decodes [0x8A] .pulh ∧ Decodes [0x88] .pulx ∧
  (∀ s : State, s.mem.wf = true → s.writable s.sp = true →
    (∃ t, exec .psha s = .next t ∧
      t = { s with
        mem := t.mem, io := s.ioAfter [.write s.sp s.a], sp := s.sp - 1, pc := nextPc s 1 } ∧
      s.Wrote t [(s.sp, s.a)]) ∧
    (∃ t, exec .pshh s = .next t ∧
      t = { s with
        mem := t.mem, io := s.ioAfter [.write s.sp s.h], sp := s.sp - 1, pc := nextPc s 1 } ∧
      s.Wrote t [(s.sp, s.h)]) ∧
    (∃ t, exec .pshx s = .next t ∧
      t = { s with
        mem := t.mem, io := s.ioAfter [.write s.sp s.x], sp := s.sp - 1, pc := nextPc s 1 } ∧
      s.Wrote t [(s.sp, s.x)])) ∧
  (∀ (s : State) (v : Byte), s.load (s.sp + 1) = .ok v →
    exec .pula s = .next { s with
      io := s.ioAfter [.read (s.sp + 1)], a := v, sp := s.sp + 1, pc := nextPc s 1 } ∧
    exec .pulh s = .next { s with
      io := s.ioAfter [.read (s.sp + 1)], h := v, sp := s.sp + 1, pc := nextPc s 1 } ∧
    exec .pulx s = .next { s with
      io := s.ioAfter [.read (s.sp + 1)], x := v, sp := s.sp + 1, pc := nextPc s 1 })

/-! ## Arithmetic -/

/-- ADD and ADC in every form: the sum modulo 256, C when it exceeds 255, H when bit 3 carries, V when the
signed sum is out of range (PRESUMED by the spec, log 17), N, Z (42_arithmetic.md R168, R170, R171). -/
def Obligations.AddResult : Prop :=
  ∀ (o : Src) (s : State) (v : Byte), o.value s = .ok v →
    exec (.add o) s = .next { s with
      io := s.ioAfter (o.accesses s), a := BitVec.ofNat 8 (s.a.toNat + v.toNat),
      ccr := added s.ccr s.a v 0, pc := nextPc s o.length } ∧
    exec (.adc o) s = .next { s with
      io := s.ioAfter (o.accesses s), a := BitVec.ofNat 8 (s.a.toNat + v.toNat + s.ccr.c.toNat),
      ccr := added s.ccr s.a v s.ccr.c.toNat, pc := nextPc s o.length }

/-- SUB, SBC, CMP, CPX and CPHX in every form: the difference, which only SUB and SBC keep, C when it borrows,
V when the signed difference is out of range (log 17), N, Z; the half carry is kept; CPHX reads the high byte
first (log 23) (42_arithmetic.md R168, R172, R173, R174, R181, R182). -/
def Obligations.SubtractResult : Prop :=
  (∀ (o : Src) (s : State) (v : Byte), o.value s = .ok v →
    exec (.sub o) s = .next { s with
      io := s.ioAfter (o.accesses s), a := BitVec.ofNat 8 (difference s.a v 0),
      ccr := subtracted s.ccr s.a v 0, pc := nextPc s o.length } ∧
    exec (.sbc o) s = .next { s with
      io := s.ioAfter (o.accesses s), a := BitVec.ofNat 8 (difference s.a v s.ccr.c.toNat),
      ccr := subtracted s.ccr s.a v s.ccr.c.toNat, pc := nextPc s o.length } ∧
    exec (.cmp o) s = .next { s with
      io := s.ioAfter (o.accesses s), ccr := subtracted s.ccr s.a v 0, pc := nextPc s o.length } ∧
    exec (.cpx o) s = .next { s with
      io := s.ioAfter (o.accesses s), ccr := subtracted s.ccr s.x v 0, pc := nextPc s o.length }) ∧
  (∀ (w : WideSrc) (s : State) (v : Word), w.value s = .ok v →
    exec (.cphx w) s = .next { s with
      io := s.ioAfter w.accesses,
      ccr := nz16 { s.ccr with
        v := outside16 (s.hx.toInt - v.toInt), c := decide (hxNat s < v.toNat) }
        ((hxNat s + 65536 - v.toNat) % 65536),
      pc := nextPc s w.length })

/-- NEG, INC, DEC and COM on memory, on A and on X (42_arithmetic.md R176, R178, R180; 43_logic_shift.md R204;
20_memory.md R61; V on the inherited pages is PRESUMED by the spec, log 17, 18). -/
def Obligations.ModifyResult : Prop :=
  ModifiesAs .neg .nega .negx (fun f v =>
    ((256 - v) % 256, nz8 { f with v := decide (v = 128), c := decide (v ≠ 0) } ((256 - v) % 256))) ∧
  ModifiesAs .inc .inca .incx (fun f v =>
    ((v + 1) % 256, nz8 { f with v := decide (v = 127) } ((v + 1) % 256))) ∧
  ModifiesAs .dec .deca .decx (fun f v =>
    ((v + 255) % 256, nz8 { f with v := decide (v = 128) } ((v + 255) % 256))) ∧
  ModifiesAs .com .coma .comx (fun f v => (255 - v, nz8 { f with v := false, c := true } (255 - v)))

/-- LSL, LSR, ASR, ROL and ROR on memory, on A and on X: the bit that leaves goes to C, V = N xor C (PRESUMED
by the spec, log 18) (20_memory.md R61; 43_logic_shift.md R199, R201, R202, R206, R209, R210). -/
def Obligations.ShiftResult : Prop :=
  ModifiesAs .lsl .lsla .lslx (fun f v => ((2 * v) % 256, shifted f ((2 * v) % 256) (v / 128))) ∧
  ModifiesAs .lsr .lsra .lsrx (fun f v => (v / 2, shifted f (v / 2) (v % 2))) ∧
  ModifiesAs .asr .asra .asrx (fun f v =>
    (v / 2 + 128 * (v / 128), shifted f (v / 2 + 128 * (v / 128)) (v % 2))) ∧
  ModifiesAs .rol .rola .rolx (fun f v =>
    ((2 * v) % 256 + f.c.toNat, shifted f ((2 * v) % 256 + f.c.toNat) (v / 128))) ∧
  ModifiesAs .ror .rora .rorx (fun f v =>
    (v / 2 + 128 * f.c.toNat, shifted f (v / 2 + 128 * f.c.toNat) (v % 2)))

/-- MUL: X:A is the unsigned product of X and A; CCR.H and C are cleared; the register H, N, Z, V, I and all
else are kept (42_arithmetic.md R179). -/
def Obligations.MulResult : Prop :=
  Decodes [0x42] .mul ∧
  ∀ s : State, ∃ t, exec .mul s = .next t ∧
    t = { s with
      x := t.x, a := t.a, ccr := { s.ccr with h := false, c := false }, pc := nextPc s 1 } ∧
    256 * t.x.toNat + t.a.toNat = s.x.toNat * s.a.toNat

/-- DIV: H:A by X. Where X exceeds H, A is the quotient, H the remainder, C = 0, Z tells a zero quotient;
otherwise C = 1 and A, H and Z may be anything. X and all else are kept (42_arithmetic.md R177,
93_implementation_defined.md U1; log 15). -/
def Obligations.DivResult : Prop :=
  ∀ s : State, ∃ t, exec .div s = .next t ∧
    t = { s with a := t.a, h := t.h, ccr := { s.ccr with z := t.ccr.z, c := t.ccr.c }, pc := nextPc s 1 } ∧
    (s.h.toNat < s.x.toNat →
      t.a.toNat * s.x.toNat + t.h.toNat = 256 * s.h.toNat + s.a.toNat ∧ t.h.toNat < s.x.toNat ∧
      t.ccr.c = false ∧ t.ccr.z = decide (t.a.toNat = 0)) ∧
    (s.x.toNat ≤ s.h.toNat → t.ccr.c = true)

/-- DAA: inside its table A plus the correction modulo 256, C from the table, N and Z from the result;
outside, A, C, N and Z may be anything; V may be anything always; all else is kept (42_arithmetic.md R175,
93_implementation_defined.md U2, U3; log 16). -/
def Obligations.DaaResult : Prop :=
  ∀ s : State, ∃ t, exec .daa s = .next t ∧
    t = { s with
      a := t.a, ccr := { s.ccr with v := t.ccr.v, n := t.ccr.n, z := t.ccr.z, c := t.ccr.c },
      pc := nextPc s 1 } ∧
    ∀ k c, daaEntry s.ccr.c (s.a.toNat / 16) s.ccr.h (s.a.toNat % 16) = some (k, c) →
      t.a.toNat = (s.a.toNat + k) % 256 ∧ t.ccr.c = c ∧ t.ccr.n = decide (128 ≤ t.a.toNat) ∧
      t.ccr.z = decide (t.a.toNat = 0)

/-- After ADC of two bytes of decimal digits, DAA leaves the decimal sum in A and its carry in C: its table
covers every such case (42_arithmetic.md R170, R175). -/
def Obligations.DaaCorrectsDecimalSums : Prop :=
  ∀ (o : Src) (s : State) (v : Byte), isBcd s.a → isBcd v → o.value s = .ok v →
    ∃ t u, exec (.adc o) s = .next t ∧ exec .daa t = .next u ∧ isBcd u.a ∧
      bcd u.a + (if u.ccr.c then 100 else 0) = bcd s.a + bcd v + s.ccr.c.toNat

/-! ## Logic and tests -/

/-- AND, ORA, EOR, BIT and the three forms of TST: bit by bit, N and Z from the result, V = 0 (PRESUMED by the
spec, log 18), C and H kept; BIT and TST write no register and no memory (43_logic_shift.md R200, R203, R205,
R208; 42_arithmetic.md R183). -/
def Obligations.LogicAndTestResult : Prop :=
  (∀ (o : Src) (s : State) (v : Byte), o.value s = .ok v →
    exec (.and o) s = .next { s with
      io := s.ioAfter (o.accesses s), a := s.a &&& v, ccr := moved8 s.ccr (s.a.toNat &&& v.toNat),
      pc := nextPc s o.length } ∧
    exec (.ora o) s = .next { s with
      io := s.ioAfter (o.accesses s), a := s.a ||| v, ccr := moved8 s.ccr (s.a.toNat ||| v.toNat),
      pc := nextPc s o.length } ∧
    exec (.eor o) s = .next { s with
      io := s.ioAfter (o.accesses s), a := s.a ^^^ v, ccr := moved8 s.ccr (s.a.toNat ^^^ v.toNat),
      pc := nextPc s o.length } ∧
    exec (.bit o) s = .next { s with
      io := s.ioAfter (o.accesses s), ccr := moved8 s.ccr (s.a.toNat &&& v.toNat), pc := nextPc s o.length }) ∧
  (∀ (m : MemRef) (s : State) (v : Byte), s.load (m.ea s) = .ok v →
    exec (.tst m) s = .next { s with
      io := s.ioAfter [.read (m.ea s)], ccr := moved8 s.ccr v.toNat, pc := nextPc s m.length }) ∧
  (∀ s, exec .tsta s = .next { s with ccr := moved8 s.ccr s.a.toNat, pc := nextPc s 1 }) ∧
  (∀ s, exec .tstx s = .next { s with ccr := moved8 s.ccr s.x.toNat, pc := nextPc s 1 })

/-- NSA swaps the nibbles of A and changes no flag; twice restores A (43_logic_shift.md R207). -/
def Obligations.NsaResult : Prop :=
  Decodes [0x62] .nsa ∧
  ∀ s : State, ∃ t, exec .nsa s = .next t ∧ t = { s with a := t.a, pc := nextPc s 1 } ∧
    t.a.toNat = 16 * (s.a.toNat % 16) + s.a.toNat / 16 ∧
    ∃ u, exec .nsa t = .next u ∧ u.a = s.a

/-! ## Bits and flags -/

/-- BSET n and BCLR n: bit n of the direct-page byte, its other bits and every flag kept; one read and one write
of the whole byte, the write made even where the byte does not change, on RAM and on an I/O register
(44_bit_ccr.md R220, R221; 20_memory.md R61, R63). -/
def Obligations.BitWriteResult : Prop :=
  (∀ (n : Fin 8) dd, Decodes [BitVec.ofNat 8 (0x10 + 2 * n.val), dd] (.bset n dd)) ∧
  (∀ (n : Fin 8) dd, Decodes [BitVec.ofNat 8 (0x11 + 2 * n.val), dd] (.bclr n dd)) ∧
  ∀ (n : Fin 8) (dd : Byte) (s : State) (v : Byte), s.mem.wf = true → s.load (zext16 dd) = .ok v →
    s.writable (zext16 dd) = true →
    (∃ t w, exec (.bset n dd) s = .next t ∧
      t = { s with
        mem := t.mem, io := s.ioAfter [.read (zext16 dd), .write (zext16 dd) w], pc := nextPc s 2 } ∧
      s.Wrote t [(zext16 dd, w)] ∧ ∀ k, k < 8 → w.getLsbD k = (v.getLsbD k || decide (k = n.val))) ∧
    (∃ t w, exec (.bclr n dd) s = .next t ∧
      t = { s with
        mem := t.mem, io := s.ioAfter [.read (zext16 dd), .write (zext16 dd) w], pc := nextPc s 2 } ∧
      s.Wrote t [(zext16 dd, w)] ∧ ∀ k, k < 8 → w.getLsbD k = (v.getLsbD k && decide (k ≠ n.val)))

/-- BRSET n and BRCLR n: one read of the direct-page byte; C is the tested bit, taken or not; the branch is
taken when it is 1, or 0
(44_bit_ccr.md R222, R223). -/
def Obligations.BitBranchResult : Prop :=
  (∀ (n : Fin 8) dd rr, Decodes [BitVec.ofNat 8 (2 * n.val), dd, rr] (.brset n dd rr)) ∧
  (∀ (n : Fin 8) dd rr, Decodes [BitVec.ofNat 8 (2 * n.val + 1), dd, rr] (.brclr n dd rr)) ∧
  ∀ (n : Fin 8) (dd rr : Byte) (s : State) (v : Byte), s.load (zext16 dd) = .ok v →
    exec (.brset n dd rr) s = .next { s with
      io := s.ioAfter [.read (zext16 dd)],
      ccr := { s.ccr with c := v.toNat.testBit n.val },
      pc := goesTo s 3 rr (v.toNat.testBit n.val) } ∧
    exec (.brclr n dd rr) s = .next { s with
      io := s.ioAfter [.read (zext16 dd)],
      ccr := { s.ccr with c := v.toNat.testBit n.val },
      pc := goesTo s 3 rr (!v.toNat.testBit n.val) }

/-- CLC, SEC and SEI write their one flag; NOP advances PC; nothing else changes (44_bit_ccr.md R224, R226,
R227; 47_control.md R300). -/
def Obligations.FlagInstructionResult : Prop :=
  Decodes [0x98] .clc ∧ Decodes [0x99] .sec ∧ Decodes [0x9B] .sei ∧ Decodes [0x9D] .nop ∧
  ∀ s : State,
    exec .clc s = .next { s with ccr := { s.ccr with c := false }, pc := nextPc s 1 } ∧
    exec .sec s = .next { s with ccr := { s.ccr with c := true }, pc := nextPc s 1 } ∧
    exec .sei s = .next { s with ccr := { s.ccr with i := true }, pc := nextPc s 1 } ∧
    exec .nop s = .next { s with pc := nextPc s 1 }

/-! ## Branches -/

/-- The sixteen branches on C, Z, H, N, I and the IRQ pin, BRA and BRN among them: their bytes, the condition,
the target, and that only PC changes (45_branch.md R241 to R256). -/
def Obligations.BranchResult : Prop :=
  BranchesWhen 0x20 .bra (fun _ => true) ∧ BranchesWhen 0x21 .brn (fun _ => false) ∧
  BranchesWhen 0x24 .bcc (fun s => !s.ccr.c) ∧ BranchesWhen 0x25 .bcs (fun s => s.ccr.c) ∧
  BranchesWhen 0x27 .beq (fun s => s.ccr.z) ∧ BranchesWhen 0x26 .bne (fun s => !s.ccr.z) ∧
  BranchesWhen 0x22 .bhi (fun s => !s.ccr.c && !s.ccr.z) ∧
  BranchesWhen 0x23 .bls (fun s => s.ccr.c || s.ccr.z) ∧
  BranchesWhen 0x28 .bhcc (fun s => !s.ccr.h) ∧ BranchesWhen 0x29 .bhcs (fun s => s.ccr.h) ∧
  BranchesWhen 0x2A .bpl (fun s => !s.ccr.n) ∧ BranchesWhen 0x2B .bmi (fun s => s.ccr.n) ∧
  BranchesWhen 0x2C .bmc (fun s => !s.ccr.i) ∧ BranchesWhen 0x2D .bms (fun s => s.ccr.i) ∧
  BranchesWhen 0x2F .bih (fun s => s.irqPin) ∧ BranchesWhen 0x2E .bil (fun s => !s.irqPin)

/-- The four signed branches (45_branch.md R258 to R262; the lost operators are the spec's derivation,
log 36). -/
def Obligations.SignedBranchResult : Prop :=
  BranchesWhen 0x90 .bge (fun s => s.ccr.n == s.ccr.v) ∧ BranchesWhen 0x91 .blt (fun s => s.ccr.n != s.ccr.v) ∧
  BranchesWhen 0x92 .bgt (fun s => !s.ccr.z && s.ccr.n == s.ccr.v) ∧
  BranchesWhen 0x93 .ble (fun s => s.ccr.z || s.ccr.n != s.ccr.v)

/-- After CMP, SUB, CPX or CPHX every branch on an order decides it for the two operands, unsigned and signed
(45_branch.md R257 to R262; rests on V of log 17 and the operators of log 36). -/
def Obligations.CompareThenBranch : Prop :=
  (∀ (o : Src) (s t : State) (v : Byte), o.value s = .ok v →
    (exec (.cmp o) s = .next t → DecidesOrder t s.a.toNat v.toNat s.a.toInt v.toInt) ∧
    (exec (.sub o) s = .next t → DecidesOrder t s.a.toNat v.toNat s.a.toInt v.toInt) ∧
    (exec (.cpx o) s = .next t → DecidesOrder t s.x.toNat v.toNat s.x.toInt v.toInt)) ∧
  (∀ (w : WideSrc) (s t : State) (v : Word), w.value s = .ok v →
    exec (.cphx w) s = .next t → DecidesOrder t s.hx.toNat v.toNat s.hx.toInt v.toInt)

/-- CBEQ in its four forms, CBEQA and CBEQX: the branch is taken when the bytes are equal; the indexed forms
increment H:X modulo 2^16 taken or not, the address being formed before; the operand's byte is read once, nothing
is written and no flag changes (45_branch.md R263, R264, R265). -/
def Obligations.CompareEqualBranchResult : Prop :=
  (∀ dd rr, Decodes [0x31, dd, rr] (.cbeq (.dir dd) rr)) ∧
  (∀ ff rr, Decodes [0x61, ff, rr] (.cbeq (.ix1Inc ff) rr)) ∧
  (∀ rr, Decodes [0x71, rr] (.cbeq .ixInc rr)) ∧
  (∀ ff rr, Decodes [0x9E, 0x61, ff, rr] (.cbeq (.sp1 ff) rr)) ∧
  (∀ ii rr, Decodes [0x41, ii, rr] (.cbeqa ii rr)) ∧ (∀ ii rr, Decodes [0x51, ii, rr] (.cbeqx ii rr)) ∧
  (∀ (dd rr : Byte) (s : State) (v : Byte), s.load (BitVec.ofNat 16 dd.toNat) = .ok v →
    exec (.cbeq (.dir dd) rr) s = .next { s with
      io := s.ioAfter (reads [BitVec.ofNat 16 dd.toNat]), pc := goesTo s 3 rr (decide (s.a = v)) }) ∧
  (∀ (ff rr : Byte) (s : State) (v : Byte), s.load (BitVec.ofNat 16 (hxNat s + ff.toNat)) = .ok v →
    exec (.cbeq (.ix1Inc ff) rr) s = .next { s with
      io := s.ioAfter (reads [BitVec.ofNat 16 (hxNat s + ff.toNat)]),
      h := BitVec.ofNat 8 ((hxNat s + 1) / 256), x := BitVec.ofNat 8 ((hxNat s + 1) % 256),
      pc := goesTo s 3 rr (decide (s.a = v)) }) ∧
  (∀ (rr : Byte) (s : State) (v : Byte), s.load (BitVec.ofNat 16 (hxNat s)) = .ok v →
    exec (.cbeq .ixInc rr) s = .next { s with
      io := s.ioAfter (reads [BitVec.ofNat 16 (hxNat s)]),
      h := BitVec.ofNat 8 ((hxNat s + 1) / 256), x := BitVec.ofNat 8 ((hxNat s + 1) % 256),
      pc := goesTo s 2 rr (decide (s.a = v)) }) ∧
  (∀ (ff rr : Byte) (s : State) (v : Byte), s.load (BitVec.ofNat 16 (s.sp.toNat + ff.toNat)) = .ok v →
    exec (.cbeq (.sp1 ff) rr) s = .next { s with
      io := s.ioAfter (reads [BitVec.ofNat 16 (s.sp.toNat + ff.toNat)]),
      pc := goesTo s 4 rr (decide (s.a = v)) }) ∧
  (∀ (ii rr : Byte) (s : State),
    exec (.cbeqa ii rr) s = .next { s with pc := goesTo s 3 rr (decide (s.a = ii)) }) ∧
  (∀ (ii rr : Byte) (s : State),
    exec (.cbeqx ii rr) s = .next { s with pc := goesTo s 3 rr (decide (s.x = ii)) })

/-- DBNZ in its four forms, DBNZA and DBNZX: one less modulo 256, the branch taken when it is not zero; no
flag, and DBNZX borrows nothing from H (45_branch.md R266, R267, R268). -/
def Obligations.DecrementBranchResult : Prop :=
  (∀ dd rr, Decodes [0x3B, dd, rr] (.dbnz (.dir dd) rr)) ∧
  (∀ ff rr, Decodes [0x6B, ff, rr] (.dbnz (.ix1 ff) rr)) ∧
  (∀ rr, Decodes [0x7B, rr] (.dbnz .ix rr)) ∧
  (∀ ff rr, Decodes [0x9E, 0x6B, ff, rr] (.dbnz (.sp1 ff) rr)) ∧
  (∀ rr, Decodes [0x4B, rr] (.dbnza rr)) ∧ (∀ rr, Decodes [0x5B, rr] (.dbnzx rr)) ∧
  (∀ (m : MemRef) (rr : Byte) (s : State) (v : Byte), s.mem.wf = true → s.load (m.ea s) = .ok v →
    s.writable (m.ea s) = true →
    ∃ t, exec (.dbnz m rr) s = .next t ∧
      t = { s with
        mem := t.mem, io := s.ioAfter [.read (m.ea s), .write (m.ea s) (BitVec.ofNat 8 (v.toNat + 255))],
        pc := goesTo s (m.length + 1) rr (decide (v.toNat ≠ 1)) } ∧
      s.Wrote t [(m.ea s, BitVec.ofNat 8 (v.toNat + 255))]) ∧
  (∀ (rr : Byte) (s : State), exec (.dbnza rr) s = .next { s with
    a := BitVec.ofNat 8 (s.a.toNat + 255), pc := goesTo s 2 rr (decide (s.a.toNat ≠ 1)) }) ∧
  (∀ (rr : Byte) (s : State), exec (.dbnzx rr) s = .next { s with
    x := BitVec.ofNat 8 (s.x.toNat + 255), pc := goesTo s 2 rr (decide (s.x.toNat ≠ 1)) })

/-! ## Jumps, calls, returns -/

/-- JMP in its five forms, none of them on SP: PC is the effective address itself; no memory operand is read and
nothing else changes (46_jump_subroutine.md R281). -/
def Obligations.JmpResult : Prop :=
  (∀ dd, Decodes [0xBC, dd] (.jmp (.dir dd))) ∧
  (∀ hh ll, Decodes [0xCC, hh, ll] (.jmp (.ext (BitVec.ofNat 16 (256 * hh.toNat + ll.toNat))))) ∧
  (∀ ee ff, Decodes [0xDC, ee, ff] (.jmp (.ix2 (BitVec.ofNat 16 (256 * ee.toNat + ff.toNat))))) ∧
  (∀ ff, Decodes [0xEC, ff] (.jmp (.ix1 ff))) ∧ Decodes [0xFC] (.jmp .ix) ∧
  (∀ ff, (Instr.jmp (.sp1 ff)).wf = false) ∧ (∀ eeff, (Instr.jmp (.sp2 eeff)).wf = false) ∧
  ∀ (m : MemRef) (s : State), exec (.jmp m) s = .next { s with pc := BitVec.ofNat 16 (address m s) }

/-- BSR, JSR in its five forms, none of them on SP, and RTS: the return address stacked low byte first, so the high
byte lies at the lower address, SP two lower, PC at the target; RTS loads PC from the two bytes above SP and raises SP
by two; no flag (46_jump_subroutine.md R280, R282, R283). -/
def Obligations.CallAndReturnResult : Prop :=
  (∀ rr, Decodes [0xAD, rr] (.bsr rr)) ∧ (∀ dd, Decodes [0xBD, dd] (.jsr (.dir dd))) ∧
  (∀ hh ll, Decodes [0xCD, hh, ll] (.jsr (.ext (BitVec.ofNat 16 (256 * hh.toNat + ll.toNat))))) ∧
  (∀ ee ff, Decodes [0xDD, ee, ff] (.jsr (.ix2 (BitVec.ofNat 16 (256 * ee.toNat + ff.toNat))))) ∧
  (∀ ff, Decodes [0xED, ff] (.jsr (.ix1 ff))) ∧ Decodes [0xFD] (.jsr .ix) ∧ Decodes [0x81] .rts ∧
  (∀ ff, (Instr.jsr (.sp1 ff)).wf = false) ∧ (∀ eeff, (Instr.jsr (.sp2 eeff)).wf = false) ∧
  (∀ (s : State), s.mem.wf = true → s.writable s.sp = true → s.writable (s.sp - 1) = true →
    (∀ rr, ∃ t, exec (.bsr rr) s = .next t ∧
      t = { s with
        mem := t.mem, sp := s.sp - 2, pc := goesTo s 2 rr true,
        io := s.ioAfter [.write s.sp (BitVec.ofNat 8 ((nextPc s 2).toNat % 256)),
          .write (s.sp - 1) (BitVec.ofNat 8 ((nextPc s 2).toNat / 256))] } ∧
      s.Wrote t [(s.sp - 1, BitVec.ofNat 8 ((nextPc s 2).toNat / 256)),
        (s.sp, BitVec.ofNat 8 ((nextPc s 2).toNat % 256))]) ∧
    (∀ m, ∃ t, exec (.jsr m) s = .next t ∧
      t = { s with
        mem := t.mem, sp := s.sp - 2, pc := BitVec.ofNat 16 (address m s),
        io := s.ioAfter [.write s.sp (BitVec.ofNat 8 ((nextPc s m.length).toNat % 256)),
          .write (s.sp - 1) (BitVec.ofNat 8 ((nextPc s m.length).toNat / 256))] } ∧
      s.Wrote t [(s.sp - 1, BitVec.ofNat 8 ((nextPc s m.length).toNat / 256)),
        (s.sp, BitVec.ofNat 8 ((nextPc s m.length).toNat % 256))])) ∧
  (∀ (s : State) (hi lo : Byte), s.Reads [(s.sp + 1, hi), (s.sp + 2, lo)] →
    exec .rts s = .next { s with
      io := s.ioAfter (reads [s.sp + 1, s.sp + 2]), sp := s.sp + 2, pc := BitVec.ofNat 16 (256 * hi.toNat + lo.toNat) })

/-- A subroutine that leaves SP and the two stacked bytes as the call made them, whatever else it changes, returns,
by RTS, to the instruction after the call with SP restored (46_jump_subroutine.md R280, R282, R283; the stack bytes are
RAM). -/
def Obligations.CallThenReturn : Prop :=
  ∀ s t u : State, s.mem.wf = true → s.kindAt s.sp = .ram → s.kindAt (s.sp - 1) = .ram →
    u.byteAt s.sp = t.byteAt s.sp → u.byteAt (s.sp - 1) = t.byteAt (s.sp - 1) → u.sp = t.sp →
    u.params = t.params →
    (∀ m, exec (.jsr m) s = .next t →
      exec .rts u = .next { u with sp := s.sp, pc := nextPc s m.length }) ∧
    (∀ rr, exec (.bsr rr) s = .next t → exec .rts u = .next { u with sp := s.sp, pc := nextPc s 2 })

/-! ## Control -/

/-- STOP and WAIT: I cleared, PC past the instruction, STOPPED or WAITING, all else kept (47_control.md R302,
R304; what ends them is the spec's decision, log 11). -/
def Obligations.StopWaitResult : Prop :=
  Decodes [0x8E] .stop ∧ Decodes [0x8F] .wait ∧
  ∀ s : State,
    exec .stop s = .next { s with
      ccr := { s.ccr with i := false }, runState := .stopped, pc := nextPc s 1 } ∧
    exec .wait s = .next { s with
      ccr := { s.ccr with i := false }, runState := .waiting, pc := nextPc s 1 }

/-- SWI, whatever I is: the address after it, X, A and the CCR byte as it was are stacked, I is set, PC comes
from $FFFC; H and all else are kept (47_control.md R303, 60_exceptions.md R402, R403, R410, R411, R413). -/
def Obligations.SwiResult : Prop :=
  Decodes [0x83] .swi ∧
  ∀ s : State, s.mem.wf = true → frameWritable s → s.readable 0xFFFC = true → s.readable 0xFFFD = true →
    ∃ t, exec .swi s = .next t ∧ s.Wrote t (frame s (nextPc s 1)) ∧
      State.loadWord { t with io := s.ioAfter (stacked s (nextPc s 1)) } 0xFFFC = .ok t.pc ∧
      t = { s with
        mem := t.mem, io := s.ioAfter (stacked s (nextPc s 1) ++ reads [0xFFFC, 0xFFFD]), sp := s.sp - 5,
        ccr := { s.ccr with i := true }, pc := t.pc }

/-- RTI: the flags from the bits of the first byte above SP, then A, X and PC; SP five higher; H, memory and
all else kept, with no CLI delay (47_control.md R301, 10_state.md R27; log 26, 39). -/
def Obligations.RtiResult : Prop :=
  Decodes [0x80] .rti ∧
  ∀ (s : State) (flags a x hi lo : Byte),
    s.Reads [(s.sp + 1, flags), (s.sp + 2, a), (s.sp + 3, x), (s.sp + 4, hi), (s.sp + 5, lo)] →
    exec .rti s = .next { s with
      io := s.ioAfter (reads [s.sp + 1, s.sp + 2, s.sp + 3, s.sp + 4, s.sp + 5]),
      ccr :=
        { v := flags.toNat.testBit 7, h := flags.toNat.testBit 4, i := flags.toNat.testBit 3,
          n := flags.toNat.testBit 2, z := flags.toNat.testBit 1, c := flags.toNat.testBit 0 },
      a := a, x := x, pc := BitVec.ofNat 16 (256 * hi.toNat + lo.toNat), sp := s.sp + 5 }

/-- A handler, of SWI or of an interrupt, that leaves SP and the five stacked bytes as the entry made them,
whatever else it changes, ends by RTI with A, X, the flags (I among them) and SP of the interrupted program and
PC where it stopped (60_exceptions.md R415, R423; 47_control.md R301, R303; the stack bytes are RAM). -/
def Obligations.RtiUndoesEntry : Prop :=
  ∀ s t u : State, s.mem.wf = true → frameInRam s → sameFrame s t u → u.sp = t.sp →
    u.params = t.params →
    (exec .swi s = .next t →
      exec .rti u = .next { u with
        a := s.a, x := s.x, ccr := s.ccr, sp := s.sp, pc := nextPc s 1 }) ∧
    (∀ vec, s.interruptEntry vec = .ok t →
      exec .rti u = .next { u with a := s.a, x := s.x, ccr := s.ccr, sp := s.sp, pc := s.pc })
end

