-- ==== Sys2Proof/Machine/Assembly.lean ====
section
/-! DEFINITION. Motorola assembler syntax (30_encoding.md R107, R108), as data: the text of an instruction at
an address, and the assembler's choice of the shortest form. No step uses them (log 37). -/

namespace Sys2Proof.Machine

open Sys2Proof

/-- One hexadecimal digit. -/
def hexDigit (n : Nat) : Char := Char.ofNat (if n < 10 then 48 + n else 55 + n)

/-- `$hh`. -/
def hexByte (b : Byte) : String :=
  "$" ++ String.ofList [hexDigit (b.toNat / 16), hexDigit (b.toNat % 16)]

/-- `$hhhh`. -/
def hexWord (w : Word) : String :=
  "$" ++ String.ofList
    [hexDigit (w.toNat / 4096), hexDigit (w.toNat / 256 % 16), hexDigit (w.toNat / 16 % 16),
     hexDigit (w.toNat % 16)]

/-- The operand field of a memory operand. -/
def MemRef.text : MemRef → String
  | .dir dd => hexByte dd
  | .ext hhll => hexWord hhll
  | .ix2 eeff => hexWord eeff ++ ",X"
  | .ix1 ff => hexByte ff ++ ",X"
  | .ix => ",X"
  | .sp1 ff => hexByte ff ++ ",SP"
  | .sp2 eeff => hexWord eeff ++ ",SP"

/-- The operand field of an 8-bit source operand. -/
def Src.text : Src → String
  | .imm ii => "#" ++ hexByte ii
  | .mem m => MemRef.text m

/-- The operand field of a 16-bit source operand. -/
def WideSrc.text : WideSrc → String
  | .imm16 iijj => "#" ++ hexWord iijj
  | .dir dd => hexByte dd

/-- The operand field of CBEQ, without the target. -/
def CbeqRef.text : CbeqRef → String
  | .dir dd => hexByte dd
  | .ix1Inc ff => hexByte ff ++ ",X+"
  | .ixInc => "X+"
  | .sp1 ff => hexByte ff ++ ",SP"

/-- The operand field of MOV: source first, destination second. -/
def MovForm.text : MovForm → String
  | .dd src dst => hexByte src ++ "," ++ hexByte dst
  | .dixInc src => hexByte src ++ ",X+"
  | .imd ii dst => "#" ++ hexByte ii ++ "," ++ hexByte dst
  | .ixIncD dst => "X+," ++ hexByte dst

/-- The operand of a bit instruction: the bit number, then the direct-page address. -/
def bitText (n : Fin 8) (dd : Byte) : String := String.singleton (hexDigit n.val) ++ "," ++ hexByte dd

/-- The statement that assembles to the instruction at the address `pc`: a branch names its target by its
absolute address, from which the assembler computes `rr` (R107). -/
def sourceText (pc : Word) (i : Instr) : String :=
  let target (rr : Byte) : String := hexWord (pc + BitVec.ofNat 16 i.length + sext16 rr)
  match i with
  | .brset n dd rr => "BRSET " ++ bitText n dd ++ "," ++ target rr
  | .brclr n dd rr => "BRCLR " ++ bitText n dd ++ "," ++ target rr
  | .bset n dd => "BSET " ++ bitText n dd
  | .bclr n dd => "BCLR " ++ bitText n dd
  | .bra rr => "BRA " ++ target rr
  | .brn rr => "BRN " ++ target rr
  | .bhi rr => "BHI " ++ target rr
  | .bls rr => "BLS " ++ target rr
  | .bcc rr => "BCC " ++ target rr
  | .bcs rr => "BCS " ++ target rr
  | .bne rr => "BNE " ++ target rr
  | .beq rr => "BEQ " ++ target rr
  | .bhcc rr => "BHCC " ++ target rr
  | .bhcs rr => "BHCS " ++ target rr
  | .bpl rr => "BPL " ++ target rr
  | .bmi rr => "BMI " ++ target rr
  | .bmc rr => "BMC " ++ target rr
  | .bms rr => "BMS " ++ target rr
  | .bil rr => "BIL " ++ target rr
  | .bih rr => "BIH " ++ target rr
  | .neg m => "NEG " ++ MemRef.text m
  | .cbeq m rr => "CBEQ " ++ CbeqRef.text m ++ "," ++ target rr
  | .com m => "COM " ++ MemRef.text m
  | .lsr m => "LSR " ++ MemRef.text m
  | .sthx dd => "STHX " ++ hexByte dd
  | .ror m => "ROR " ++ MemRef.text m
  | .asr m => "ASR " ++ MemRef.text m
  | .lsl m => "LSL " ++ MemRef.text m
  | .rol m => "ROL " ++ MemRef.text m
  | .dec m => "DEC " ++ MemRef.text m
  | .dbnz m rr => "DBNZ " ++ MemRef.text m ++ "," ++ target rr
  | .inc m => "INC " ++ MemRef.text m
  | .tst m => "TST " ++ MemRef.text m
  | .clr m => "CLR " ++ MemRef.text m
  | .nega => "NEGA"
  | .cbeqa ii rr => "CBEQA #" ++ hexByte ii ++ "," ++ target rr
  | .mul => "MUL"
  | .coma => "COMA"
  | .lsra => "LSRA"
  | .ldhx w => "LDHX " ++ WideSrc.text w
  | .rora => "RORA"
  | .asra => "ASRA"
  | .lsla => "LSLA"
  | .rola => "ROLA"
  | .deca => "DECA"
  | .dbnza rr => "DBNZA " ++ target rr
  | .inca => "INCA"
  | .tsta => "TSTA"
  | .mov f => "MOV " ++ MovForm.text f
  | .clra => "CLRA"
  | .negx => "NEGX"
  | .cbeqx ii rr => "CBEQX #" ++ hexByte ii ++ "," ++ target rr
  | .div => "DIV"
  | .comx => "COMX"
  | .lsrx => "LSRX"
  | .rorx => "RORX"
  | .asrx => "ASRX"
  | .lslx => "LSLX"
  | .rolx => "ROLX"
  | .decx => "DECX"
  | .dbnzx rr => "DBNZX " ++ target rr
  | .incx => "INCX"
  | .tstx => "TSTX"
  | .clrx => "CLRX"
  | .nsa => "NSA"
  | .cphx w => "CPHX " ++ WideSrc.text w
  | .daa => "DAA"
  | .rti => "RTI"
  | .rts => "RTS"
  | .swi => "SWI"
  | .tap => "TAP"
  | .tpa => "TPA"
  | .pula => "PULA"
  | .psha => "PSHA"
  | .pulx => "PULX"
  | .pshx => "PSHX"
  | .pulh => "PULH"
  | .pshh => "PSHH"
  | .clrh => "CLRH"
  | .stop => "STOP"
  | .wait => "WAIT"
  | .bge rr => "BGE " ++ target rr
  | .blt rr => "BLT " ++ target rr
  | .bgt rr => "BGT " ++ target rr
  | .ble rr => "BLE " ++ target rr
  | .txs => "TXS"
  | .tsx => "TSX"
  | .tax => "TAX"
  | .clc => "CLC"
  | .sec => "SEC"
  | .cli => "CLI"
  | .sei => "SEI"
  | .rsp => "RSP"
  | .nop => "NOP"
  | .txa => "TXA"
  | .sub o => "SUB " ++ Src.text o
  | .cmp o => "CMP " ++ Src.text o
  | .sbc o => "SBC " ++ Src.text o
  | .cpx o => "CPX " ++ Src.text o
  | .and o => "AND " ++ Src.text o
  | .bit o => "BIT " ++ Src.text o
  | .lda o => "LDA " ++ Src.text o
  | .ais ii => "AIS #" ++ hexByte ii
  | .eor o => "EOR " ++ Src.text o
  | .adc o => "ADC " ++ Src.text o
  | .ora o => "ORA " ++ Src.text o
  | .add o => "ADD " ++ Src.text o
  | .bsr rr => "BSR " ++ target rr
  | .ldx o => "LDX " ++ Src.text o
  | .aix ii => "AIX #" ++ hexByte ii
  | .sta m => "STA " ++ MemRef.text m
  | .jmp m => "JMP " ++ MemRef.text m
  | .jsr m => "JSR " ++ MemRef.text m
  | .stx m => "STX " ++ MemRef.text m

/-- The form the assembler picks for an address or an offset written in the source: the shortest that holds it
(R108). Where an instruction does not have that form, the assembler keeps the longer one. -/
def MemRef.shorten : MemRef → MemRef
  | .ext hhll => if hhll.toNat < 256 then .dir (loByte hhll) else .ext hhll
  | .ix2 eeff =>
    if eeff = 0 then .ix else if eeff.toNat < 256 then .ix1 (loByte eeff) else .ix2 eeff
  | .ix1 ff => if ff = 0 then .ix else .ix1 ff
  | .sp2 eeff => if eeff.toNat < 256 then .sp1 (loByte eeff) else .sp2 eeff
  | .dir dd => .dir dd
  | .ix => .ix
  | .sp1 ff => .sp1 ff

end Sys2Proof.Machine
end

