-- ==== Sys2Proof/Laws/Assembly.lean ====
section
/-! SUPPORT. The assembler's choice of a form does not change the address (30_encoding.md R108). -/

namespace Sys2Proof.Machine

open Sys2Proof

theorem zext16_loByte {w : Word} (h : w.toNat < 256) : zext16 (loByte w) = w := by
  apply BitVec.eq_of_toNat_eq
  simp [zext16, loByte, BitVec.extractLsb'_toNat]
  omega

theorem MemRef.shorten_ea (m : MemRef) (s : State) : (MemRef.shorten m).ea s = m.ea s := by
  cases m with
  | ext w =>
    simp only [MemRef.shorten]; split
    · rename_i h; simp [MemRef.ea, zext16_loByte h]
    · rfl
  | ix2 w =>
    simp only [MemRef.shorten]; split
    · rename_i h; simp [MemRef.ea, h]
    · split
      · rename_i h; simp [MemRef.ea, zext16_loByte h]
      · rfl
  | ix1 w =>
    simp only [MemRef.shorten]; split
    · rename_i h; simp [MemRef.ea, zext16, h]
    · rfl
  | sp2 w =>
    simp only [MemRef.shorten]; split
    · rename_i h; simp [MemRef.ea, zext16_loByte h]
    · rfl
  | dir dd => rfl
  | ix => rfl
  | sp1 ff => rfl

end Sys2Proof.Machine
end

