-- ==== Sys2Proof/Laws/State.lean ====
section
/-! SUPPORT. Every field after every named update of State, and every flag after every named update of the
condition codes. -/

namespace Sys2Proof.Machine

open Sys2Proof

/-! ### State.advance -/

@[simp] theorem State.advance_a (s : State) (n : Nat) : (s.advance n).a = s.a := rfl
@[simp] theorem State.advance_x (s : State) (n : Nat) : (s.advance n).x = s.x := rfl
@[simp] theorem State.advance_h (s : State) (n : Nat) : (s.advance n).h = s.h := rfl
@[simp] theorem State.advance_sp (s : State) (n : Nat) : (s.advance n).sp = s.sp := rfl
@[simp] theorem State.advance_pc (s : State) (n : Nat) : (s.advance n).pc = s.pc + BitVec.ofNat 16 n := rfl
@[simp] theorem State.advance_ccr (s : State) (n : Nat) : (s.advance n).ccr = s.ccr := rfl
@[simp] theorem State.advance_mem (s : State) (n : Nat) : (s.advance n).mem = s.mem := rfl
@[simp] theorem State.advance_cliDelay (s : State) (n : Nat) : (s.advance n).cliDelay = s.cliDelay := rfl
@[simp] theorem State.advance_runState (s : State) (n : Nat) : (s.advance n).runState = s.runState := rfl
@[simp] theorem State.advance_irqPin (s : State) (n : Nat) : (s.advance n).irqPin = s.irqPin := rfl
@[simp] theorem State.advance_sources (s : State) (n : Nat) : (s.advance n).sources = s.sources := rfl
@[simp] theorem State.advance_resetLine (s : State) (n : Nat) : (s.advance n).resetLine = s.resetLine := rfl
@[simp] theorem State.advance_params (s : State) (n : Nat) : (s.advance n).params = s.params := rfl
@[simp] theorem State.advance_draws (s : State) (n : Nat) : (s.advance n).draws = s.draws := rfl
@[simp] theorem State.advance_io (s : State) (n : Nat) : (s.advance n).io = s.io := rfl

/-! ### State.branch -/

@[simp] theorem State.branch_a (s : State) (n : Nat) (rr : Byte) (b : Bool) : (s.branch n rr b).a = s.a := rfl
@[simp] theorem State.branch_x (s : State) (n : Nat) (rr : Byte) (b : Bool) : (s.branch n rr b).x = s.x := rfl
@[simp] theorem State.branch_h (s : State) (n : Nat) (rr : Byte) (b : Bool) : (s.branch n rr b).h = s.h := rfl
@[simp] theorem State.branch_sp (s : State) (n : Nat) (rr : Byte) (b : Bool) : (s.branch n rr b).sp = s.sp := rfl
@[simp] theorem State.branch_pc (s : State) (n : Nat) (rr : Byte) (b : Bool) : (s.branch n rr b).pc = if b then s.pc + BitVec.ofNat 16 n + sext16 rr else s.pc + BitVec.ofNat 16 n := rfl
@[simp] theorem State.branch_ccr (s : State) (n : Nat) (rr : Byte) (b : Bool) : (s.branch n rr b).ccr = s.ccr := rfl
@[simp] theorem State.branch_mem (s : State) (n : Nat) (rr : Byte) (b : Bool) : (s.branch n rr b).mem = s.mem := rfl
@[simp] theorem State.branch_cliDelay (s : State) (n : Nat) (rr : Byte) (b : Bool) : (s.branch n rr b).cliDelay = s.cliDelay := rfl
@[simp] theorem State.branch_runState (s : State) (n : Nat) (rr : Byte) (b : Bool) : (s.branch n rr b).runState = s.runState := rfl
@[simp] theorem State.branch_irqPin (s : State) (n : Nat) (rr : Byte) (b : Bool) : (s.branch n rr b).irqPin = s.irqPin := rfl
@[simp] theorem State.branch_sources (s : State) (n : Nat) (rr : Byte) (b : Bool) : (s.branch n rr b).sources = s.sources := rfl
@[simp] theorem State.branch_resetLine (s : State) (n : Nat) (rr : Byte) (b : Bool) : (s.branch n rr b).resetLine = s.resetLine := rfl
@[simp] theorem State.branch_params (s : State) (n : Nat) (rr : Byte) (b : Bool) : (s.branch n rr b).params = s.params := rfl
@[simp] theorem State.branch_draws (s : State) (n : Nat) (rr : Byte) (b : Bool) : (s.branch n rr b).draws = s.draws := rfl
@[simp] theorem State.branch_io (s : State) (n : Nat) (rr : Byte) (b : Bool) : (s.branch n rr b).io = s.io := rfl

/-! ### State.setHX -/

@[simp] theorem State.setHX_a (s : State) (v : Word) : (s.setHX v).a = s.a := rfl
@[simp] theorem State.setHX_x (s : State) (v : Word) : (s.setHX v).x = loByte v := rfl
@[simp] theorem State.setHX_h (s : State) (v : Word) : (s.setHX v).h = hiByte v := rfl
@[simp] theorem State.setHX_sp (s : State) (v : Word) : (s.setHX v).sp = s.sp := rfl
@[simp] theorem State.setHX_pc (s : State) (v : Word) : (s.setHX v).pc = s.pc := rfl
@[simp] theorem State.setHX_ccr (s : State) (v : Word) : (s.setHX v).ccr = s.ccr := rfl
@[simp] theorem State.setHX_mem (s : State) (v : Word) : (s.setHX v).mem = s.mem := rfl
@[simp] theorem State.setHX_cliDelay (s : State) (v : Word) : (s.setHX v).cliDelay = s.cliDelay := rfl
@[simp] theorem State.setHX_runState (s : State) (v : Word) : (s.setHX v).runState = s.runState := rfl
@[simp] theorem State.setHX_irqPin (s : State) (v : Word) : (s.setHX v).irqPin = s.irqPin := rfl
@[simp] theorem State.setHX_sources (s : State) (v : Word) : (s.setHX v).sources = s.sources := rfl
@[simp] theorem State.setHX_resetLine (s : State) (v : Word) : (s.setHX v).resetLine = s.resetLine := rfl
@[simp] theorem State.setHX_params (s : State) (v : Word) : (s.setHX v).params = s.params := rfl
@[simp] theorem State.setHX_draws (s : State) (v : Word) : (s.setHX v).draws = s.draws := rfl
@[simp] theorem State.setHX_io (s : State) (v : Word) : (s.setHX v).io = s.io := rfl

/-! ### State.afterRead -/

@[simp] theorem State.afterRead_a (s : State) (a : Word) : (s.afterRead a).a = s.a := rfl
@[simp] theorem State.afterRead_x (s : State) (a : Word) : (s.afterRead a).x = s.x := rfl
@[simp] theorem State.afterRead_h (s : State) (a : Word) : (s.afterRead a).h = s.h := rfl
@[simp] theorem State.afterRead_sp (s : State) (a : Word) : (s.afterRead a).sp = s.sp := rfl
@[simp] theorem State.afterRead_pc (s : State) (a : Word) : (s.afterRead a).pc = s.pc := rfl
@[simp] theorem State.afterRead_ccr (s : State) (a : Word) : (s.afterRead a).ccr = s.ccr := rfl
@[simp] theorem State.afterRead_mem (s : State) (a : Word) : (s.afterRead a).mem = s.mem := rfl
@[simp] theorem State.afterRead_cliDelay (s : State) (a : Word) : (s.afterRead a).cliDelay = s.cliDelay := rfl
@[simp] theorem State.afterRead_runState (s : State) (a : Word) : (s.afterRead a).runState = s.runState := rfl
@[simp] theorem State.afterRead_irqPin (s : State) (a : Word) : (s.afterRead a).irqPin = s.irqPin := rfl
@[simp] theorem State.afterRead_sources (s : State) (a : Word) : (s.afterRead a).sources = s.sources := rfl
@[simp] theorem State.afterRead_resetLine (s : State) (a : Word) : (s.afterRead a).resetLine = s.resetLine := rfl
@[simp] theorem State.afterRead_params (s : State) (a : Word) : (s.afterRead a).params = s.params := rfl
@[simp] theorem State.afterRead_draws (s : State) (a : Word) : (s.afterRead a).draws = s.draws := rfl
@[simp] theorem State.afterRead_io (s : State) (a : Word) : (s.afterRead a).io = s.ioAfter [.read a] := rfl

/-! ### State.afterFetch -/

@[simp] theorem State.afterFetch_a (s : State) (n : Nat) : (s.afterFetch n).a = s.a := rfl
@[simp] theorem State.afterFetch_x (s : State) (n : Nat) : (s.afterFetch n).x = s.x := rfl
@[simp] theorem State.afterFetch_h (s : State) (n : Nat) : (s.afterFetch n).h = s.h := rfl
@[simp] theorem State.afterFetch_sp (s : State) (n : Nat) : (s.afterFetch n).sp = s.sp := rfl
@[simp] theorem State.afterFetch_pc (s : State) (n : Nat) : (s.afterFetch n).pc = s.pc := rfl
@[simp] theorem State.afterFetch_ccr (s : State) (n : Nat) : (s.afterFetch n).ccr = s.ccr := rfl
@[simp] theorem State.afterFetch_mem (s : State) (n : Nat) : (s.afterFetch n).mem = s.mem := rfl
@[simp] theorem State.afterFetch_cliDelay (s : State) (n : Nat) : (s.afterFetch n).cliDelay = s.cliDelay := rfl
@[simp] theorem State.afterFetch_runState (s : State) (n : Nat) : (s.afterFetch n).runState = s.runState := rfl
@[simp] theorem State.afterFetch_irqPin (s : State) (n : Nat) : (s.afterFetch n).irqPin = s.irqPin := rfl
@[simp] theorem State.afterFetch_sources (s : State) (n : Nat) : (s.afterFetch n).sources = s.sources := rfl
@[simp] theorem State.afterFetch_resetLine (s : State) (n : Nat) : (s.afterFetch n).resetLine = s.resetLine := rfl
@[simp] theorem State.afterFetch_params (s : State) (n : Nat) : (s.afterFetch n).params = s.params := rfl
@[simp] theorem State.afterFetch_draws (s : State) (n : Nat) : (s.afterFetch n).draws = s.draws := rfl
@[simp] theorem State.afterFetch_io (s : State) (n : Nat) : (s.afterFetch n).io = s.ioAfter (s.fetchAccesses n) := rfl

/-! ### State.setIo -/

@[simp] theorem State.setIo_a (s : State) (io : Nat) : (s.setIo io).a = s.a := rfl
@[simp] theorem State.setIo_x (s : State) (io : Nat) : (s.setIo io).x = s.x := rfl
@[simp] theorem State.setIo_h (s : State) (io : Nat) : (s.setIo io).h = s.h := rfl
@[simp] theorem State.setIo_sp (s : State) (io : Nat) : (s.setIo io).sp = s.sp := rfl
@[simp] theorem State.setIo_pc (s : State) (io : Nat) : (s.setIo io).pc = s.pc := rfl
@[simp] theorem State.setIo_ccr (s : State) (io : Nat) : (s.setIo io).ccr = s.ccr := rfl
@[simp] theorem State.setIo_mem (s : State) (io : Nat) : (s.setIo io).mem = s.mem := rfl
@[simp] theorem State.setIo_cliDelay (s : State) (io : Nat) : (s.setIo io).cliDelay = s.cliDelay := rfl
@[simp] theorem State.setIo_runState (s : State) (io : Nat) : (s.setIo io).runState = s.runState := rfl
@[simp] theorem State.setIo_irqPin (s : State) (io : Nat) : (s.setIo io).irqPin = s.irqPin := rfl
@[simp] theorem State.setIo_sources (s : State) (io : Nat) : (s.setIo io).sources = s.sources := rfl
@[simp] theorem State.setIo_resetLine (s : State) (io : Nat) : (s.setIo io).resetLine = s.resetLine := rfl
@[simp] theorem State.setIo_params (s : State) (io : Nat) : (s.setIo io).params = s.params := rfl
@[simp] theorem State.setIo_draws (s : State) (io : Nat) : (s.setIo io).draws = s.draws := rfl
@[simp] theorem State.setIo_io (s : State) (io : Nat) : (s.setIo io).io = io := rfl

/-! ### State.tick -/

@[simp] theorem State.tick_a (s : State) : (s.tick).a = s.a := rfl
@[simp] theorem State.tick_x (s : State) : (s.tick).x = s.x := rfl
@[simp] theorem State.tick_h (s : State) : (s.tick).h = s.h := rfl
@[simp] theorem State.tick_sp (s : State) : (s.tick).sp = s.sp := rfl
@[simp] theorem State.tick_pc (s : State) : (s.tick).pc = s.pc := rfl
@[simp] theorem State.tick_ccr (s : State) : (s.tick).ccr = s.ccr := rfl
@[simp] theorem State.tick_mem (s : State) : (s.tick).mem = s.mem := rfl
@[simp] theorem State.tick_cliDelay (s : State) : (s.tick).cliDelay = s.cliDelay := rfl
@[simp] theorem State.tick_runState (s : State) : (s.tick).runState = s.runState := rfl
@[simp] theorem State.tick_irqPin (s : State) : (s.tick).irqPin = s.irqPin := rfl
@[simp] theorem State.tick_sources (s : State) : (s.tick).sources = s.sources := rfl
@[simp] theorem State.tick_resetLine (s : State) : (s.tick).resetLine = s.resetLine := rfl
@[simp] theorem State.tick_params (s : State) : (s.tick).params = s.params := rfl
@[simp] theorem State.tick_draws (s : State) : (s.tick).draws = s.draws + 1 := rfl
@[simp] theorem State.tick_io (s : State) : (s.tick).io = s.io := rfl

/-! ### State.clearDelay -/

@[simp] theorem State.clearDelay_a (s : State) : (s.clearDelay).a = s.a := rfl
@[simp] theorem State.clearDelay_x (s : State) : (s.clearDelay).x = s.x := rfl
@[simp] theorem State.clearDelay_h (s : State) : (s.clearDelay).h = s.h := rfl
@[simp] theorem State.clearDelay_sp (s : State) : (s.clearDelay).sp = s.sp := rfl
@[simp] theorem State.clearDelay_pc (s : State) : (s.clearDelay).pc = s.pc := rfl
@[simp] theorem State.clearDelay_ccr (s : State) : (s.clearDelay).ccr = s.ccr := rfl
@[simp] theorem State.clearDelay_mem (s : State) : (s.clearDelay).mem = s.mem := rfl
@[simp] theorem State.clearDelay_cliDelay (s : State) : (s.clearDelay).cliDelay = false := rfl
@[simp] theorem State.clearDelay_runState (s : State) : (s.clearDelay).runState = s.runState := rfl
@[simp] theorem State.clearDelay_irqPin (s : State) : (s.clearDelay).irqPin = s.irqPin := rfl
@[simp] theorem State.clearDelay_sources (s : State) : (s.clearDelay).sources = s.sources := rfl
@[simp] theorem State.clearDelay_resetLine (s : State) : (s.clearDelay).resetLine = s.resetLine := rfl
@[simp] theorem State.clearDelay_params (s : State) : (s.clearDelay).params = s.params := rfl
@[simp] theorem State.clearDelay_draws (s : State) : (s.clearDelay).draws = s.draws := rfl
@[simp] theorem State.clearDelay_io (s : State) : (s.clearDelay).io = s.io := rfl

/-! ### State.setIrqPin -/

@[simp] theorem State.setIrqPin_a (s : State) (b : Bool) : (s.setIrqPin b).a = s.a := rfl
@[simp] theorem State.setIrqPin_x (s : State) (b : Bool) : (s.setIrqPin b).x = s.x := rfl
@[simp] theorem State.setIrqPin_h (s : State) (b : Bool) : (s.setIrqPin b).h = s.h := rfl
@[simp] theorem State.setIrqPin_sp (s : State) (b : Bool) : (s.setIrqPin b).sp = s.sp := rfl
@[simp] theorem State.setIrqPin_pc (s : State) (b : Bool) : (s.setIrqPin b).pc = s.pc := rfl
@[simp] theorem State.setIrqPin_ccr (s : State) (b : Bool) : (s.setIrqPin b).ccr = s.ccr := rfl
@[simp] theorem State.setIrqPin_mem (s : State) (b : Bool) : (s.setIrqPin b).mem = s.mem := rfl
@[simp] theorem State.setIrqPin_cliDelay (s : State) (b : Bool) : (s.setIrqPin b).cliDelay = s.cliDelay := rfl
@[simp] theorem State.setIrqPin_runState (s : State) (b : Bool) : (s.setIrqPin b).runState = s.runState := rfl
@[simp] theorem State.setIrqPin_irqPin (s : State) (b : Bool) : (s.setIrqPin b).irqPin = b := rfl
@[simp] theorem State.setIrqPin_sources (s : State) (b : Bool) : (s.setIrqPin b).sources = s.sources := rfl
@[simp] theorem State.setIrqPin_resetLine (s : State) (b : Bool) : (s.setIrqPin b).resetLine = s.resetLine := rfl
@[simp] theorem State.setIrqPin_params (s : State) (b : Bool) : (s.setIrqPin b).params = s.params := rfl
@[simp] theorem State.setIrqPin_draws (s : State) (b : Bool) : (s.setIrqPin b).draws = s.draws := rfl
@[simp] theorem State.setIrqPin_io (s : State) (b : Bool) : (s.setIrqPin b).io = s.io := rfl

/-! ### State.setSources -/

@[simp] theorem State.setSources_a (s : State) (l : List IrqSource) : (s.setSources l).a = s.a := rfl
@[simp] theorem State.setSources_x (s : State) (l : List IrqSource) : (s.setSources l).x = s.x := rfl
@[simp] theorem State.setSources_h (s : State) (l : List IrqSource) : (s.setSources l).h = s.h := rfl
@[simp] theorem State.setSources_sp (s : State) (l : List IrqSource) : (s.setSources l).sp = s.sp := rfl
@[simp] theorem State.setSources_pc (s : State) (l : List IrqSource) : (s.setSources l).pc = s.pc := rfl
@[simp] theorem State.setSources_ccr (s : State) (l : List IrqSource) : (s.setSources l).ccr = s.ccr := rfl
@[simp] theorem State.setSources_mem (s : State) (l : List IrqSource) : (s.setSources l).mem = s.mem := rfl
@[simp] theorem State.setSources_cliDelay (s : State) (l : List IrqSource) : (s.setSources l).cliDelay = s.cliDelay := rfl
@[simp] theorem State.setSources_runState (s : State) (l : List IrqSource) : (s.setSources l).runState = s.runState := rfl
@[simp] theorem State.setSources_irqPin (s : State) (l : List IrqSource) : (s.setSources l).irqPin = s.irqPin := rfl
@[simp] theorem State.setSources_sources (s : State) (l : List IrqSource) : (s.setSources l).sources = l := rfl
@[simp] theorem State.setSources_resetLine (s : State) (l : List IrqSource) : (s.setSources l).resetLine = s.resetLine := rfl
@[simp] theorem State.setSources_params (s : State) (l : List IrqSource) : (s.setSources l).params = s.params := rfl
@[simp] theorem State.setSources_draws (s : State) (l : List IrqSource) : (s.setSources l).draws = s.draws := rfl
@[simp] theorem State.setSources_io (s : State) (l : List IrqSource) : (s.setSources l).io = s.io := rfl

/-! ### State.setResetLine -/

@[simp] theorem State.setResetLine_a (s : State) (b : Bool) : (s.setResetLine b).a = s.a := rfl
@[simp] theorem State.setResetLine_x (s : State) (b : Bool) : (s.setResetLine b).x = s.x := rfl
@[simp] theorem State.setResetLine_h (s : State) (b : Bool) : (s.setResetLine b).h = s.h := rfl
@[simp] theorem State.setResetLine_sp (s : State) (b : Bool) : (s.setResetLine b).sp = s.sp := rfl
@[simp] theorem State.setResetLine_pc (s : State) (b : Bool) : (s.setResetLine b).pc = s.pc := rfl
@[simp] theorem State.setResetLine_ccr (s : State) (b : Bool) : (s.setResetLine b).ccr = s.ccr := rfl
@[simp] theorem State.setResetLine_mem (s : State) (b : Bool) : (s.setResetLine b).mem = s.mem := rfl
@[simp] theorem State.setResetLine_cliDelay (s : State) (b : Bool) : (s.setResetLine b).cliDelay = s.cliDelay := rfl
@[simp] theorem State.setResetLine_runState (s : State) (b : Bool) : (s.setResetLine b).runState = s.runState := rfl
@[simp] theorem State.setResetLine_irqPin (s : State) (b : Bool) : (s.setResetLine b).irqPin = s.irqPin := rfl
@[simp] theorem State.setResetLine_sources (s : State) (b : Bool) : (s.setResetLine b).sources = s.sources := rfl
@[simp] theorem State.setResetLine_resetLine (s : State) (b : Bool) : (s.setResetLine b).resetLine = b := rfl
@[simp] theorem State.setResetLine_params (s : State) (b : Bool) : (s.setResetLine b).params = s.params := rfl
@[simp] theorem State.setResetLine_draws (s : State) (b : Bool) : (s.setResetLine b).draws = s.draws := rfl
@[simp] theorem State.setResetLine_io (s : State) (b : Bool) : (s.setResetLine b).io = s.io := rfl

/-! ### State.bumpHX -/

@[simp] theorem State.bumpHX_true (s : State) : s.bumpHX true = s.setHX (s.hx + 1) := rfl
@[simp] theorem State.bumpHX_false (s : State) : s.bumpHX false = s := rfl
@[simp] theorem State.bumpHX_a (s : State) (b : Bool) : (s.bumpHX b).a = s.a := by cases b <;> rfl
@[simp] theorem State.bumpHX_sp (s : State) (b : Bool) : (s.bumpHX b).sp = s.sp := by cases b <;> rfl
@[simp] theorem State.bumpHX_pc (s : State) (b : Bool) : (s.bumpHX b).pc = s.pc := by cases b <;> rfl
@[simp] theorem State.bumpHX_ccr (s : State) (b : Bool) : (s.bumpHX b).ccr = s.ccr := by cases b <;> rfl
@[simp] theorem State.bumpHX_mem (s : State) (b : Bool) : (s.bumpHX b).mem = s.mem := by cases b <;> rfl
@[simp] theorem State.bumpHX_cliDelay (s : State) (b : Bool) : (s.bumpHX b).cliDelay = s.cliDelay := by cases b <;> rfl
@[simp] theorem State.bumpHX_runState (s : State) (b : Bool) : (s.bumpHX b).runState = s.runState := by cases b <;> rfl
@[simp] theorem State.bumpHX_irqPin (s : State) (b : Bool) : (s.bumpHX b).irqPin = s.irqPin := by cases b <;> rfl
@[simp] theorem State.bumpHX_sources (s : State) (b : Bool) : (s.bumpHX b).sources = s.sources := by cases b <;> rfl
@[simp] theorem State.bumpHX_resetLine (s : State) (b : Bool) : (s.bumpHX b).resetLine = s.resetLine := by cases b <;> rfl
@[simp] theorem State.bumpHX_params (s : State) (b : Bool) : (s.bumpHX b).params = s.params := by cases b <;> rfl
@[simp] theorem State.bumpHX_draws (s : State) (b : Bool) : (s.bumpHX b).draws = s.draws := by cases b <;> rfl
@[simp] theorem State.bumpHX_io (s : State) (b : Bool) : (s.bumpHX b).io = s.io := by cases b <;> rfl

/-! ### Ccr.setNZ8 -/

@[simp] theorem Ccr.setNZ8_v (f : Ccr) (r : Byte) : (f.setNZ8 r).v = f.v := rfl
@[simp] theorem Ccr.setNZ8_h (f : Ccr) (r : Byte) : (f.setNZ8 r).h = f.h := rfl
@[simp] theorem Ccr.setNZ8_i (f : Ccr) (r : Byte) : (f.setNZ8 r).i = f.i := rfl
@[simp] theorem Ccr.setNZ8_n (f : Ccr) (r : Byte) : (f.setNZ8 r).n = r.msb := rfl
@[simp] theorem Ccr.setNZ8_z (f : Ccr) (r : Byte) : (f.setNZ8 r).z = decide (r = 0) := rfl
@[simp] theorem Ccr.setNZ8_c (f : Ccr) (r : Byte) : (f.setNZ8 r).c = f.c := rfl

/-! ### Ccr.setNZ16 -/

@[simp] theorem Ccr.setNZ16_v (f : Ccr) (r : Word) : (f.setNZ16 r).v = f.v := rfl
@[simp] theorem Ccr.setNZ16_h (f : Ccr) (r : Word) : (f.setNZ16 r).h = f.h := rfl
@[simp] theorem Ccr.setNZ16_i (f : Ccr) (r : Word) : (f.setNZ16 r).i = f.i := rfl
@[simp] theorem Ccr.setNZ16_n (f : Ccr) (r : Word) : (f.setNZ16 r).n = r.msb := rfl
@[simp] theorem Ccr.setNZ16_z (f : Ccr) (r : Word) : (f.setNZ16 r).z = decide (r = 0) := rfl
@[simp] theorem Ccr.setNZ16_c (f : Ccr) (r : Word) : (f.setNZ16 r).c = f.c := rfl

/-! ### Ccr.afterAdd -/

@[simp] theorem Ccr.afterAdd_v (f : Ccr) (q : Alu) : (f.afterAdd q).v = q.overflow := rfl
@[simp] theorem Ccr.afterAdd_h (f : Ccr) (q : Alu) : (f.afterAdd q).h = q.half := rfl
@[simp] theorem Ccr.afterAdd_i (f : Ccr) (q : Alu) : (f.afterAdd q).i = f.i := rfl
@[simp] theorem Ccr.afterAdd_n (f : Ccr) (q : Alu) : (f.afterAdd q).n = q.r.msb := rfl
@[simp] theorem Ccr.afterAdd_z (f : Ccr) (q : Alu) : (f.afterAdd q).z = decide (q.r = 0) := rfl
@[simp] theorem Ccr.afterAdd_c (f : Ccr) (q : Alu) : (f.afterAdd q).c = q.carry := rfl

/-! ### Ccr.afterSub -/

@[simp] theorem Ccr.afterSub_v (f : Ccr) (q : Alu) : (f.afterSub q).v = q.overflow := rfl
@[simp] theorem Ccr.afterSub_h (f : Ccr) (q : Alu) : (f.afterSub q).h = f.h := rfl
@[simp] theorem Ccr.afterSub_i (f : Ccr) (q : Alu) : (f.afterSub q).i = f.i := rfl
@[simp] theorem Ccr.afterSub_n (f : Ccr) (q : Alu) : (f.afterSub q).n = q.r.msb := rfl
@[simp] theorem Ccr.afterSub_z (f : Ccr) (q : Alu) : (f.afterSub q).z = decide (q.r = 0) := rfl
@[simp] theorem Ccr.afterSub_c (f : Ccr) (q : Alu) : (f.afterSub q).c = q.carry := rfl

/-! ### Ccr.afterSub16 -/

@[simp] theorem Ccr.afterSub16_v (f : Ccr) (q : Alu16) : (f.afterSub16 q).v = q.overflow := rfl
@[simp] theorem Ccr.afterSub16_h (f : Ccr) (q : Alu16) : (f.afterSub16 q).h = f.h := rfl
@[simp] theorem Ccr.afterSub16_i (f : Ccr) (q : Alu16) : (f.afterSub16 q).i = f.i := rfl
@[simp] theorem Ccr.afterSub16_n (f : Ccr) (q : Alu16) : (f.afterSub16 q).n = q.r.msb := rfl
@[simp] theorem Ccr.afterSub16_z (f : Ccr) (q : Alu16) : (f.afterSub16 q).z = decide (q.r = 0) := rfl
@[simp] theorem Ccr.afterSub16_c (f : Ccr) (q : Alu16) : (f.afterSub16 q).c = q.carry := rfl

/-! ### Ccr.afterMove -/

@[simp] theorem Ccr.afterMove_v (f : Ccr) (r : Byte) : (f.afterMove r).v = false := rfl
@[simp] theorem Ccr.afterMove_h (f : Ccr) (r : Byte) : (f.afterMove r).h = f.h := rfl
@[simp] theorem Ccr.afterMove_i (f : Ccr) (r : Byte) : (f.afterMove r).i = f.i := rfl
@[simp] theorem Ccr.afterMove_n (f : Ccr) (r : Byte) : (f.afterMove r).n = r.msb := rfl
@[simp] theorem Ccr.afterMove_z (f : Ccr) (r : Byte) : (f.afterMove r).z = decide (r = 0) := rfl
@[simp] theorem Ccr.afterMove_c (f : Ccr) (r : Byte) : (f.afterMove r).c = f.c := rfl

/-! ### Ccr.afterMove16 -/

@[simp] theorem Ccr.afterMove16_v (f : Ccr) (r : Word) : (f.afterMove16 r).v = false := rfl
@[simp] theorem Ccr.afterMove16_h (f : Ccr) (r : Word) : (f.afterMove16 r).h = f.h := rfl
@[simp] theorem Ccr.afterMove16_i (f : Ccr) (r : Word) : (f.afterMove16 r).i = f.i := rfl
@[simp] theorem Ccr.afterMove16_n (f : Ccr) (r : Word) : (f.afterMove16 r).n = r.msb := rfl
@[simp] theorem Ccr.afterMove16_z (f : Ccr) (r : Word) : (f.afterMove16 r).z = decide (r = 0) := rfl
@[simp] theorem Ccr.afterMove16_c (f : Ccr) (r : Word) : (f.afterMove16 r).c = f.c := rfl

/-! ### Ccr.afterClear -/

@[simp] theorem Ccr.afterClear_v (f : Ccr) : (f.afterClear).v = false := rfl
@[simp] theorem Ccr.afterClear_h (f : Ccr) : (f.afterClear).h = f.h := rfl
@[simp] theorem Ccr.afterClear_i (f : Ccr) : (f.afterClear).i = f.i := rfl
@[simp] theorem Ccr.afterClear_n (f : Ccr) : (f.afterClear).n = false := rfl
@[simp] theorem Ccr.afterClear_z (f : Ccr) : (f.afterClear).z = true := rfl
@[simp] theorem Ccr.afterClear_c (f : Ccr) : (f.afterClear).c = f.c := rfl

/-! ### Ccr.afterShift -/

@[simp] theorem Ccr.afterShift_v (f : Ccr) (r : Byte) (out : Bool) : (f.afterShift r out).v = (r.msb ^^ out) := rfl
@[simp] theorem Ccr.afterShift_h (f : Ccr) (r : Byte) (out : Bool) : (f.afterShift r out).h = f.h := rfl
@[simp] theorem Ccr.afterShift_i (f : Ccr) (r : Byte) (out : Bool) : (f.afterShift r out).i = f.i := rfl
@[simp] theorem Ccr.afterShift_n (f : Ccr) (r : Byte) (out : Bool) : (f.afterShift r out).n = r.msb := rfl
@[simp] theorem Ccr.afterShift_z (f : Ccr) (r : Byte) (out : Bool) : (f.afterShift r out).z = decide (r = 0) := rfl
@[simp] theorem Ccr.afterShift_c (f : Ccr) (r : Byte) (out : Bool) : (f.afterShift r out).c = out := rfl

end Sys2Proof.Machine
end

