-- ==== Sys2Proof/Laws/Words.lean ====
section
/-! SUPPORT. Bytes and words as numbers: joining, splitting, extending, H:X, the end of a branch, the CCR as
a byte. -/

namespace Sys2Proof

/-! ## Bytes of a word -/

@[simp] theorem hiByte_toNat (w : Word) : (hiByte w).toNat = w.toNat / 256 := by
  have := w.isLt
  simp only [hiByte, BitVec.extractLsb'_toNat, Nat.shiftRight_eq_div_pow]
  omega

@[simp] theorem loByte_toNat (w : Word) : (loByte w).toNat = w.toNat % 256 := by
  simp [loByte, BitVec.extractLsb'_toNat]

@[simp] theorem wordOf_toNat (hi lo : Byte) : (wordOf hi lo).toNat = 256 * hi.toNat + lo.toNat := by
  have h : (hi ++ lo).toNat = hi.toNat <<< 8 ||| lo.toNat := BitVec.toNat_append ..
  rw [wordOf, h, ← Nat.shiftLeft_add_eq_or_of_lt lo.isLt, Nat.shiftLeft_eq]
  omega

@[simp] theorem wordOf_hiByte_loByte (w : Word) : wordOf (hiByte w) (loByte w) = w := by
  apply BitVec.eq_of_toNat_eq
  simp only [wordOf_toNat, hiByte_toNat, loByte_toNat]
  omega

@[simp] theorem hiByte_wordOf (hi lo : Byte) : hiByte (wordOf hi lo) = hi := by
  apply BitVec.eq_of_toNat_eq
  have := lo.isLt
  simp only [wordOf_toNat, hiByte_toNat]
  omega

@[simp] theorem loByte_wordOf (hi lo : Byte) : loByte (wordOf hi lo) = lo := by
  apply BitVec.eq_of_toNat_eq
  have := lo.isLt
  simp only [wordOf_toNat, loByte_toNat]
  omega

/-- The high byte, from the number. -/
theorem hiByte_eq_ofNat (w : Word) : hiByte w = BitVec.ofNat 8 (w.toNat / 256) := by
  apply BitVec.eq_of_toNat_eq
  have := w.isLt
  simp only [hiByte_toNat, BitVec.toNat_ofNat]
  omega

/-- The low byte, from the number. -/
theorem loByte_eq_ofNat (w : Word) : loByte w = BitVec.ofNat 8 (w.toNat % 256) := by
  apply BitVec.eq_of_toNat_eq
  simp only [loByte_toNat, BitVec.toNat_ofNat]
  omega

/-- Two bytes joined, from their numbers. -/
theorem wordOf_eq_ofNat (hi lo : Byte) : wordOf hi lo = BitVec.ofNat 16 (256 * hi.toNat + lo.toNat) := by
  apply BitVec.eq_of_toNat_eq
  have := hi.isLt
  have := lo.isLt
  simp only [wordOf_toNat, BitVec.toNat_ofNat]
  omega

namespace Machine

/-! ## Extension and H:X -/

@[simp] theorem zext16_toNat (b : Byte) : (zext16 b).toNat = b.toNat := by
  have := b.isLt
  simp only [zext16, BitVec.toNat_setWidth]
  omega

/-- An unsigned byte as a word, from its number. -/
theorem zext16_eq_ofNat (b : Byte) : zext16 b = BitVec.ofNat 16 b.toNat := by
  apply BitVec.eq_of_toNat_eq
  have := b.isLt
  simp only [zext16_toNat, BitVec.toNat_ofNat]
  omega

/-- A signed byte as a word, from its number. -/
theorem sext16_eq_ofInt (b : Byte) : sext16 b = BitVec.ofInt 16 b.toInt := rfl

@[simp] theorem State.hx_toNat (s : State) : s.hx.toNat = 256 * s.h.toNat + s.x.toNat :=
  wordOf_toNat s.h s.x

@[simp] theorem State.hx_setHX (s : State) (v : Word) : (s.setHX v).hx = v := by
  simp [State.hx]

/-! ## PC -/

/-- The end of an instruction of `len` bytes. -/
theorem State.next_eq_ofNat (s : State) (len : Nat) :
    s.pc + BitVec.ofNat 16 len = BitVec.ofNat 16 (s.pc.toNat + len) := by
  apply BitVec.eq_of_toNat_eq
  simp only [BitVec.toNat_add, BitVec.toNat_ofNat]
  omega

/-- The target of a branch of `len` bytes. -/
theorem State.target_eq_ofInt (s : State) (len : Nat) (rr : Byte) :
    s.pc + BitVec.ofNat 16 len + sext16 rr = BitVec.ofInt 16 (s.pc.toNat + len + rr.toInt) := by
  rw [sext16_eq_ofInt, State.next_eq_ofNat, BitVec.ofInt_add, ← Int.natCast_add, BitVec.ofInt_natCast]

/-! ## The CCR -/

@[simp] theorem Ccr.ofByte_toByte (f : Ccr) : Ccr.ofByte f.toByte = f := by
  rcases f with ⟨v, h, i, n, z, c⟩
  cases v <;> cases h <;> cases i <;> cases n <;> cases z <;> cases c <;> rfl

/-- Bit 7 of a byte, from its number. -/
theorem msb_eq_decide_le (b : Byte) : b.msb = decide (128 ≤ b.toNat) := by
  rw [BitVec.msb_eq_decide]

/-- A byte is zero when its number is. -/
theorem byte_eq_zero_iff (b : Byte) : b = 0#8 ↔ b.toNat = 0 := by
  constructor
  · rintro rfl
    rfl
  · intro h
    exact BitVec.eq_of_toNat_eq h

/-- A word is zero when its number is. -/
theorem word_eq_zero_iff (w : Word) : w = 0#16 ↔ w.toNat = 0 := by
  constructor
  · rintro rfl
    rfl
  · intro h
    exact BitVec.eq_of_toNat_eq h

end Machine

end Sys2Proof
end

