-- ==== Sys2Proof/Laws/Decode.lean ====
section
/-! SUPPORT. The reader: what it reads decides what it answers, whoever gives it the bytes; a failure is the
failure of one read. -/

namespace Sys2Proof

/-- `rd'` gives every byte that `rd` gives. -/
def Agrees {ε ε' : Type} (rd : Nat → Except ε Byte) (rd' : Nat → Except ε' Byte) : Prop :=
  ∀ k b, rd k = .ok b → rd' k = .ok b

/-- Operand bytes read alike make the same instruction. -/
theorem Form.read_of_agrees {ε ε' : Type} {rd : Nat → Except ε Byte} {rd' : Nat → Except ε' Byte}
    (ha : Agrees rd rd') {f : Form} {n : Nat} {d : Decoded} (h : f.read rd n = .ok d) :
    f.read rd' n = .ok d := by
  cases f with
  | inh i =>
    cases h
    rfl
  | one mk =>
    cases h1 : rd n with
    | error e => simp [Form.read, h1, bind, Except.bind] at h
    | ok b =>
      simp only [Form.read, h1, ha n b h1, bind, Except.bind] at h ⊢
      cases h
      rfl
  | two mk =>
    cases h1 : rd n with
    | error e => simp [Form.read, h1, bind, Except.bind] at h
    | ok b =>
      cases h2 : rd (n + 1) with
      | error e => simp [Form.read, h1, h2, bind, Except.bind] at h
      | ok c =>
        simp only [Form.read, h1, h2, ha n b h1, ha (n + 1) c h2, bind, Except.bind] at h ⊢
        cases h
        rfl
  | wide mk =>
    cases h1 : rd n with
    | error e => simp [Form.read, h1, bind, Except.bind] at h
    | ok b =>
      cases h2 : rd (n + 1) with
      | error e => simp [Form.read, h1, h2, bind, Except.bind] at h
      | ok c =>
        simp only [Form.read, h1, h2, ha n b h1, ha (n + 1) c h2, bind, Except.bind] at h ⊢
        cases h
        rfl

/-- Bytes read alike decode alike. -/
theorem readInstr_of_agrees {ε ε' : Type} {rd : Nat → Except ε Byte} {rd' : Nat → Except ε' Byte}
    (ha : Agrees rd rd') {d : Decoded} (h : readInstr rd = .ok d) : readInstr rd' = .ok d := by
  cases h0 : rd 0 with
  | error e => simp [readInstr, h0, bind, Except.bind] at h
  | ok b0 =>
    by_cases hp : b0 = preByte
    · cases h1 : rd 1 with
      | error e => simp [readInstr, h0, h1, hp, bind, Except.bind] at h
      | ok b1 =>
        cases h2 : page2 b1 with
        | none =>
          simp only [readInstr, h0, h1, h2, hp, ha 0 b0 h0, ha 1 b1 h1, bind, Except.bind, if_true] at h ⊢
          cases h
          rfl
        | some f =>
          simp only [readInstr, h0, h1, h2, hp, ha 0 b0 h0, ha 1 b1 h1, bind, Except.bind, if_true] at h ⊢
          exact Form.read_of_agrees ha h
    · cases h1 : page1 b0 with
      | none =>
        simp only [readInstr, h0, h1, hp, ha 0 b0 h0, bind, Except.bind, if_false] at h ⊢
        cases h
        rfl
      | some f =>
        simp only [readInstr, h0, h1, hp, ha 0 b0 h0, bind, Except.bind, if_false] at h ⊢
        exact Form.read_of_agrees ha h

/-- A byte a list gives lies inside it. -/
theorem byteOf_lt {bytes : List Byte} {k : Nat} {b : Byte} (h : byteOf bytes k = .ok b) : k < bytes.length := by
  unfold byteOf at h
  split at h
  · next hb => exact (List.getElem?_eq_some_iff.1 hb).1
  · cases h

/-- A form read from inside a list ends inside it. -/
theorem Form.read_byteOf_length {bytes : List Byte} {f : Form} {n len : Nat} {i : Instr}
    (hn : n ≤ bytes.length) (h : f.read (byteOf bytes) n = .ok (.instr i len)) : len ≤ bytes.length := by
  cases f with
  | inh => cases h; exact hn
  | one mk =>
    cases hb : byteOf bytes n with
    | error e => simp [Form.read, hb, bind, Except.bind] at h
    | ok b =>
      simp only [Form.read, hb, bind, Except.bind, Except.ok.injEq, Decoded.instr.injEq] at h
      have := byteOf_lt hb
      omega
  | two mk | wide mk =>
    cases hb : byteOf bytes n with
    | error e => simp [Form.read, hb, bind, Except.bind] at h
    | ok b =>
      cases hc : byteOf bytes (n + 1) with
      | error e => simp [Form.read, hb, hc, bind, Except.bind] at h
      | ok c =>
        simp only [Form.read, hb, hc, bind, Except.bind, Except.ok.injEq, Decoded.instr.injEq] at h
        have := byteOf_lt hc
        omega

/-- An instruction read from a list ends inside it. -/
theorem readInstr_byteOf_length {bytes : List Byte} {i : Instr} {len : Nat}
    (h : readInstr (byteOf bytes) = .ok (.instr i len)) : len ≤ bytes.length := by
  cases h0 : byteOf bytes 0 with
  | error e => simp [readInstr, h0, bind, Except.bind] at h
  | ok b0 =>
    by_cases hp : b0 = preByte
    · cases h1 : byteOf bytes 1 with
      | error e => simp [readInstr, h0, h1, hp, bind, Except.bind] at h
      | ok b1 =>
        cases hf : page2 b1 with
        | none => simp [readInstr, h0, h1, hp, hf, bind, Except.bind] at h
        | some f =>
          simp only [readInstr, h0, h1, hp, hf, bind, Except.bind, if_true] at h
          exact Form.read_byteOf_length (byteOf_lt h1) h
    · cases hf : page1 b0 with
      | none => simp [readInstr, h0, hp, hf, bind, Except.bind] at h
      | some f =>
        simp only [readInstr, h0, hp, hf, bind, Except.bind, if_false] at h
        exact Form.read_byteOf_length (byteOf_lt h0) h

/-- A list that decodes to an instruction and nothing more is exactly that instruction's bytes. -/
theorem readInstr_of_decode {bytes : List Byte} {i : Instr} (h : decode bytes = .ok (i, [])) :
    readInstr (byteOf bytes) = .ok (.instr i bytes.length) := by
  unfold decode at h
  split at h
  · next j len hr =>
    simp only [Except.ok.injEq, Prod.mk.injEq, List.drop_eq_nil_iff] at h
    rw [hr, h.1, Nat.le_antisymm (readInstr_byteOf_length hr) h.2]
  · cases h
  · cases h
end Sys2Proof
end

