-- ==== Sys2Proof/Laws/Memory.lean ====
section
/-! SUPPORT. What memory's operations do to a read, and that each keeps the canonical form. -/

namespace Sys2Proof.Machine

open Sys2Proof

/-- An address below every listed one is unlisted. -/
theorem Memory.read_below {m : Memory} {low a : Nat} (hm : m.wfFrom low = true) (ha : a < low) :
    m.read a = Memory.unlisted := by
  induction m generalizing low with
  | nil => rfl
  | cons p rest ih =>
    obtain ⟨k, v⟩ := p
    simp only [Memory.wfFrom, Bool.and_eq_true, decide_eq_true_eq] at hm
    obtain ⟨⟨⟨hk, -⟩, -⟩, hrest⟩ := hm
    have hne : k ≠ a := by omega
    simpa [Memory.read, hne] using ih hrest (by omega)

/-- A canonical memory is canonical from any lower address on. -/
theorem Memory.wfFrom_mono {m : Memory} {low low' : Nat} (hm : m.wfFrom low = true)
    (h : low' ≤ low) : m.wfFrom low' = true := by
  cases m with
  | nil => rfl
  | cons p rest =>
    simp only [Memory.wfFrom, Bool.and_eq_true, decide_eq_true_eq] at hm ⊢
    exact ⟨⟨⟨by omega, hm.1.1.2⟩, hm.1.2⟩, hm.2⟩

/-- A read after a write gives the value written at its address and leaves every other address alone. -/
theorem Memory.read_write {m : Memory} {low : Nat} (hm : m.wfFrom low = true) (a : Nat) (v : Byte)
    (b : Nat) : (m.write a v).read b = if b = a then v else m.read b := by
  induction m generalizing low with
  | nil =>
    by_cases hv : v = Memory.unlisted
    · simp [Memory.write, Memory.read, hv]
    · simp only [Memory.write, hv, if_false, Memory.read]
      by_cases hb : b = a
      · simp [hb]
      · simp [hb, Ne.symm hb]
  | cons p rest ih =>
    obtain ⟨k, w⟩ := p
    simp only [Memory.wfFrom, Bool.and_eq_true, decide_eq_true_eq] at hm
    obtain ⟨⟨⟨-, -⟩, -⟩, hrest⟩ := hm
    have below : ∀ c, c ≤ k → Memory.read rest c = Memory.unlisted :=
      fun c hc => Memory.read_below hrest (by omega)
    by_cases h1 : a < k
    · by_cases hv : v = Memory.unlisted
      · simp only [Memory.write, h1, hv, if_true, Memory.read]
        by_cases hb : b = a
        · subst hb
          have hne : k ≠ b := by omega
          simp [hne, below b (by omega)]
        · simp [hb]
      · simp only [Memory.write, h1, hv, if_true, if_false, Memory.read]
        by_cases hb : b = a
        · simp [hb]
        · simp [hb, Ne.symm hb]
    · by_cases h2 : a = k
      · subst h2
        by_cases hv : v = Memory.unlisted
        · simp only [Memory.write, lt_irrefl, hv, if_true, if_false, Memory.read]
          by_cases hb : b = a
          · subst hb
            simp [below b le_rfl]
          · simp [hb, Ne.symm hb]
        · simp only [Memory.write, lt_irrefl, hv, if_true, if_false, Memory.read]
          by_cases hb : b = a
          · simp [hb]
          · simp [hb, Ne.symm hb]
      · simp only [Memory.write, h1, h2, if_false, Memory.read, ih hrest]
        by_cases hb : b = a
        · subst hb
          simp [Ne.symm h2]
        · simp [hb]

/-- A write inside the address space keeps the canonical form. -/
theorem Memory.wfFrom_write {m : Memory} {low : Nat} (hm : m.wfFrom low = true) {a : Nat}
    (hlow : low ≤ a) (ha : a < 65536) (v : Byte) : (m.write a v).wfFrom low = true := by
  induction m generalizing low with
  | nil =>
    by_cases hv : v = Memory.unlisted
    · simp [Memory.write, hv, Memory.wfFrom]
    · simp [Memory.write, hv, Memory.wfFrom, hlow, ha]
  | cons p rest ih =>
    obtain ⟨k, w⟩ := p
    have hall := hm
    simp only [Memory.wfFrom, Bool.and_eq_true, decide_eq_true_eq] at hm
    obtain ⟨⟨⟨hk, hk'⟩, hw⟩, hrest⟩ := hm
    by_cases h1 : a < k
    · by_cases hv : v = Memory.unlisted
      · simpa [Memory.write, h1, hv] using hall
      · simp only [Memory.write, h1, hv, if_true, if_false, Memory.wfFrom, Bool.and_eq_true,
          decide_eq_true_eq]
        exact ⟨⟨⟨hlow, ha⟩, hv⟩, ⟨⟨by omega, hk'⟩, hw⟩, hrest⟩
    · by_cases h2 : a = k
      · subst h2
        by_cases hv : v = Memory.unlisted
        · simpa [Memory.write, hv] using Memory.wfFrom_mono hrest (by omega)
        · simp only [Memory.write, lt_irrefl, hv, if_true, if_false, Memory.wfFrom, Bool.and_eq_true,
            decide_eq_true_eq]
          exact ⟨⟨⟨hk, hk'⟩, hv⟩, hrest⟩
      · simp only [Memory.write, h1, h2, if_false, Memory.wfFrom, Bool.and_eq_true, decide_eq_true_eq]
        exact ⟨⟨⟨hk, hk'⟩, hw⟩, ih hrest (by omega)⟩

/-- A byte store keeps the canonical form. -/
theorem Memory.wf_write {m : Memory} (hm : m.wf = true) (a : Word) (v : Byte) :
    (m.write a.toNat v).wf = true :=
  Memory.wfFrom_write hm (Nat.zero_le _) a.isLt v

/-- Placing an instruction's bytes keeps the canonical form. -/
theorem placeBytes_wf {m : Memory} (hm : m.wf = true) (a : Word) (bytes : List Byte) :
    (placeBytes m a bytes).wf = true := by
  induction bytes generalizing m a with
  | nil => exact hm
  | cons b rest ih => exact ih (Memory.wf_write hm a b) (a + 1)

/-- Memory after reset is in canonical form. -/
theorem State.reset_mem_wf : State.reset.mem.wf = true := rfl

end Sys2Proof.Machine
end

