-- ==== Sys2Proof/Laws/Ops.lean ====
section
/-! SUPPORT. For each shared operation, once, everything it can do: if it answers a state, that state is the
old one with these changes. Callers cite these instead of unfolding the operation. -/

namespace Sys2Proof.Machine

open Sys2Proof

/-! ## Results -/

/-- A step answers a next state exactly when the instruction's result is that state. -/
theorem outcome_eq_next {r : Result State} {t : State} : outcome r = .next t ↔ r = .ok t := by
  cases r with
  | ok s => simp [outcome]
  | error e => simp [outcome]

@[simp] theorem outcome_ok (t : State) : outcome (.ok t) = .next t := rfl

/-- A chain of operations succeeds exactly when each link does. -/
theorem Result.bind_eq_ok {α β : Type} {x : Result α} {f : α → Result β} {b : β} :
    (x >>= f) = .ok b ↔ ∃ a, x = .ok a ∧ f a = .ok b := by
  cases x with
  | ok a =>
    constructor
    · intro h
      exact ⟨a, rfl, h⟩
    · rintro ⟨_, h, hf⟩
      cases h
      exact hf
  | error e =>
    constructor
    · intro h
      cases h
    · rintro ⟨_, h, _⟩
      cases h

@[simp] theorem Result.ok_bind {α β : Type} (a : α) (f : α → Result β) : (Except.ok a >>= f) = f a := rfl

/-! ## The devices' state -/

/-- What stands at an address depends on the parameters alone. -/
theorem State.kindAt_congr {s t : State} (h : t.params = s.params) (a : Word) : t.kindAt a = s.kindAt a := by
  simp [State.kindAt, h]

/-- What an access does to the devices depends on the parameters and the time alone. -/
theorem State.ioStep_congr {s t : State} (hp : t.params = s.params) (hd : t.draws = s.draws) :
    t.ioStep = s.ioStep := by
  funext io x
  cases x <;> simp only [State.ioStep, State.kindAt_congr hp, hd]

@[simp] theorem State.ioAfter_nil (s : State) : s.ioAfter [] = s.io := rfl

/-- Accesses in two runs are the accesses of both, one run after the other. -/
theorem State.ioAfter_append {s t : State} {l : List Access} (hp : t.params = s.params)
    (hd : t.draws = s.draws) (hio : t.io = s.ioAfter l) (l' : List Access) :
    t.ioAfter l' = s.ioAfter (l ++ l') := by
  simp only [State.ioAfter, State.ioStep_congr hp hd, List.foldl_append]
  rw [hio]
  rfl

/-- The devices' state after accesses depends on the state before, the parameters and the time alone. -/
theorem State.ioAfter_congr {s t : State} (hp : t.params = s.params) (hd : t.draws = s.draws)
    (hio : t.io = s.io) (l : List Access) : t.ioAfter l = s.ioAfter l :=
  State.ioAfter_append (l := []) hp hd hio l

/-- An access elsewhere than to an I/O register leaves the devices alone. -/
theorem State.ioStep_of_memory {s : State} {x : Access} (h : ∀ id, s.kindAt x.address ≠ .device id)
    (io : Nat) : s.ioStep io x = io := by
  cases x <;> simp only [State.ioStep, Access.address] at h ⊢ <;> split <;> first | rfl | exact absurd ‹_› (h _)

/-- Accesses elsewhere than to I/O registers leave the devices alone. -/
theorem State.ioAfter_of_memory {s : State} {l : List Access}
    (h : ∀ x ∈ l, ∀ id, s.kindAt x.address ≠ .device id) : s.ioAfter l = s.io := by
  suffices ∀ io, l.foldl s.ioStep io = io from this s.io
  induction l with
  | nil => exact fun _ => rfl
  | cons x l ih =>
    intro io
    rw [List.foldl_cons, State.ioStep_of_memory (h x (by simp))]
    exact ih (fun y hy => h y (by simp [hy])) io

/-! ## Loads -/

/-- A load from RAM or ROM gives the byte there. -/
theorem State.load_memory {s : State} {a : Word}
    (h : s.kindAt a = .ram ∨ s.kindAt a = .rom ∨ s.kindAt a = .romFaulting) :
    s.load a = .ok (s.byteAt a) := by
  rcases h with h | h | h <;> simp [State.load, State.loadAs, h]

/-- A readable address gives a value. -/
theorem State.load_of_readable {s : State} {a : Word} (h : s.readable a = true) : ∃ v, s.load a = .ok v := by
  unfold State.readable at h
  unfold State.load State.loadAs
  cases hk : s.kindAt a <;> simp_all

/-- A load reads only MEMMAP, the parameters, memory, the devices' state and the time. -/
theorem State.load_congr {s t : State} (hp : t.params = s.params) (hm : t.mem = s.mem)
    (hi : t.io = s.io) (hd : t.draws = s.draws) (a : Word) : t.load a = s.load a := by
  simp [State.load, State.loadAs, State.kindAt, State.byteAt, hp, hm, hi, hd]

/-- SP plays no part in a load. -/
theorem State.load_withSp (s : State) (w a : Word) : State.load { s with sp := w } a = s.load a := rfl

/-- A 16-bit load is the byte at the address, then the byte after it. -/
theorem State.loadWord_eq_ok {s : State} {a w : Word} :
    s.loadWord a = .ok w ↔
      ∃ hi lo, s.load a = .ok hi ∧ (s.afterRead a).load (a + 1) = .ok lo ∧ w = wordOf hi lo := by
  simp only [State.loadWord, Result.bind_eq_ok, Except.ok.injEq]
  constructor
  · rintro ⟨hi, h1, lo, h2, rfl⟩
    exact ⟨hi, lo, h1, h2, rfl⟩
  · rintro ⟨hi, lo, h1, h2, rfl⟩
    exact ⟨hi, h1, lo, h2, rfl⟩

/-! ## Stores -/

/-- A store that goes through writes the byte into RAM, or leaves memory alone and is seen by the device, if
one is there. -/
theorem State.store_cases {s t : State} {a : Word} {v : Byte} (h : s.store a v = .ok t) :
    (s.kindAt a = .ram ∧ t = { s with mem := s.mem.write a.toNat v }) ∨
      (s.kindAt a ≠ .ram ∧ t = { s with io := s.ioAfter [.write a v] }) := by
  unfold State.store at h
  split at h
  · next hk => exact .inl ⟨hk, (Except.ok.inj h).symm⟩
  · next hk =>
    refine .inr ⟨by simp [hk], ?_⟩
    rw [State.ioAfter_of_memory (by simp [Access.address, hk])]
    exact (Except.ok.inj h).symm
  · cases h
  · next hk => exact .inr ⟨by simp [hk], (Except.ok.inj h).symm⟩
  · next hk =>
    split at h
    · cases h
    · refine .inr ⟨by simp [hk], ?_⟩
      rw [State.ioAfter_of_memory (by simp [Access.address, hk])]
      exact (Except.ok.inj h).symm

/-- A store changes memory and the devices' state only. -/
theorem State.store_frame {s t : State} {a : Word} {v : Byte} (h : s.store a v = .ok t) :
    t = { s with mem := t.mem, io := s.ioAfter [.write a v] } := by
  rcases State.store_cases h with ⟨hk, rfl⟩ | ⟨-, rfl⟩
  · rw [State.ioAfter_of_memory (by simp [Access.address, hk])]
  · rfl

/-- A store keeps memory's canonical form. -/
theorem State.store_wf {s t : State} {a : Word} {v : Byte} (h : s.store a v = .ok t)
    (hm : s.mem.wf = true) : t.mem.wf = true := by
  rcases State.store_cases h with ⟨-, rfl⟩ | ⟨-, rfl⟩
  · exact Memory.wf_write hm a v
  · exact hm

/-- What every byte reads after a store. -/
theorem State.store_byteAt {s t : State} {a : Word} {v : Byte} (h : s.store a v = .ok t)
    (hm : s.mem.wf = true) (b : Word) :
    t.byteAt b = if b = a ∧ s.kindAt a = .ram then v else s.byteAt b := by
  rcases State.store_cases h with ⟨hk, rfl⟩ | ⟨hk, rfl⟩
  · simp [State.byteAt, Memory.read_write (low := 0) hm, hk, BitVec.toNat_inj]
  · simp [State.byteAt, hk]

/-- A writable address takes a store. -/
theorem State.store_of_writable {s : State} {a : Word} (v : Byte) (h : s.writable a = true) :
    ∃ t, s.store a v = .ok t := by
  unfold State.writable at h
  unfold State.store
  cases hk : s.kindAt a <;> simp_all

/-- Whether a store goes through depends on the parameters alone. -/
theorem State.writable_congr {s t : State} (h : t.params = s.params) (a : Word) :
    t.writable a = s.writable a := by
  simp [State.writable, State.kindAt, h]

/-- Whether a load goes through depends on the parameters alone. -/
theorem State.readable_congr {s t : State} (h : t.params = s.params) (a : Word) :
    t.readable a = s.readable a := by
  simp [State.readable, State.kindAt, h]

/-! ## Lists of stores -/

/-- Nothing stored. -/
theorem State.Wrote.nil {s t : State} (h : t.mem = s.mem) : s.Wrote t [] := by
  intro b
  simp only [State.afterStores, State.byteAt, h]

/-- One more store, the latest. -/
theorem State.Wrote.cons {s t u : State} {l : List (Word × Byte)} {a : Word} {v : Byte}
    (h : s.Wrote t l) (hp : t.params = s.params) (hs : t.store a v = .ok u) (hm : t.mem.wf = true) :
    s.Wrote u ((a, v) :: l) := by
  intro b
  rw [State.store_byteAt hs hm b, h b, State.kindAt_congr hp, State.afterStores]
  by_cases hb : b = a
  · subst hb
    rfl
  · simp only [hb, false_and, if_false]

/-- Memory alone, what stands at each address being the same, decides what was stored. -/
theorem State.Wrote.congr {s t u : State} {l : List (Word × Byte)} (h : s.Wrote t l) (hm : u.mem = t.mem) :
    s.Wrote u l := by
  intro b
  rw [← h b]
  simp only [State.byteAt, hm]

/-- RAM reads back the latest store to its address. -/
theorem State.Wrote.byteAt_head {s t : State} {l : List (Word × Byte)} {a : Word} {v : Byte}
    (h : s.Wrote t ((a, v) :: l)) (hk : s.kindAt a = .ram) : t.byteAt a = v := by
  rw [h a, State.afterStores, if_pos ⟨rfl, hk⟩]

/-- A store to another address plays no part in a read. -/
theorem State.Wrote.byteAt_tail {s t : State} {l : List (Word × Byte)} {a b : Word} {v : Byte}
    (h : s.Wrote t ((a, v) :: l)) (hb : b ≠ a) : t.byteAt b = s.afterStores l b := by
  rw [h b, State.afterStores, if_neg fun hc => hb hc.1]

/-- One store. -/
theorem State.store_wrote {s t : State} {a : Word} {v : Byte} (h : s.store a v = .ok t)
    (hm : s.mem.wf = true) : s.Wrote t [(a, v)] :=
  (State.Wrote.nil rfl).cons rfl h hm

/-- A 16-bit store: the high byte at the address, then the low byte after it. -/
theorem State.storeWord_cases {s t : State} {a w : Word} (h : s.storeWord a w = .ok t) :
    ∃ s1, s.store a (hiByte w) = .ok s1 ∧ s1.store (a + 1) (loByte w) = .ok t := by
  simpa only [State.storeWord, Result.bind_eq_ok] using h

/-- A 16-bit store changes memory and the devices' state only. -/
theorem State.storeWord_frame {s t : State} {a w : Word} (h : s.storeWord a w = .ok t) :
    t = { s with
      mem := t.mem, io := s.ioAfter [.write a (hiByte w), .write (a + 1) (loByte w)] } := by
  obtain ⟨s1, h1, h2⟩ := State.storeWord_cases h
  have f1 := State.store_frame h1
  rw [State.store_frame h2,
    State.ioAfter_append (s := s) (l := [.write a (hiByte w)]) (by rw [f1]) (by rw [f1]) (by rw [f1]), f1]
  rfl

/-- A 16-bit store goes through where both bytes do. -/
theorem State.storeWord_of_writable {s : State} {a : Word} (w : Word) (h : s.writable a = true)
    (h' : s.writable (a + 1) = true) : ∃ t, s.storeWord a w = .ok t := by
  obtain ⟨s1, h1⟩ := State.store_of_writable (hiByte w) h
  have hp : s1.params = s.params := by rw [State.store_frame h1]
  obtain ⟨t, h2⟩ := State.store_of_writable (loByte w) ((State.writable_congr hp (a + 1)).trans h')
  exact ⟨t, by simp only [State.storeWord, h1, Result.ok_bind, h2]⟩

/-- What a 16-bit store stores. -/
theorem State.storeWord_wrote {s t : State} {a w : Word} (h : s.storeWord a w = .ok t)
    (hm : s.mem.wf = true) : s.Wrote t [(a + 1, loByte w), (a, hiByte w)] := by
  obtain ⟨s1, h1, h2⟩ := State.storeWord_cases h
  have hp : s1.params = s.params := by rw [State.store_frame h1]
  exact (State.store_wrote h1 hm).cons hp h2 (State.store_wf h1 hm)

/-- A 16-bit store keeps memory's canonical form. -/
theorem State.storeWord_wf {s t : State} {a w : Word} (h : s.storeWord a w = .ok t)
    (hm : s.mem.wf = true) : t.mem.wf = true := by
  obtain ⟨s1, h1, h2⟩ := State.storeWord_cases h
  exact State.store_wf h2 (State.store_wf h1 hm)

/-! ## The stack -/

/-- A push is a store at SP, then SP goes down by one. -/
theorem State.push_cases {s t : State} {v : Byte} (h : s.push v = .ok t) :
    ∃ u, s.store s.sp v = .ok u ∧ t = { u with sp := s.sp - 1 } := by
  simp only [State.push, Result.bind_eq_ok, Except.ok.injEq] at h
  obtain ⟨u, h1, rfl⟩ := h
  exact ⟨u, h1, rfl⟩

/-- A push changes memory, the devices' state and SP only. -/
theorem State.push_frame {s t : State} {v : Byte} (h : s.push v = .ok t) :
    t = { s with mem := t.mem, io := s.ioAfter [.write s.sp v], sp := s.sp - 1 } := by
  obtain ⟨u, h1, rfl⟩ := State.push_cases h
  rw [State.store_frame h1]

/-- A push keeps memory's canonical form. -/
theorem State.push_wf {s t : State} {v : Byte} (h : s.push v = .ok t) (hm : s.mem.wf = true) :
    t.mem.wf = true := by
  obtain ⟨u, h1, rfl⟩ := State.push_cases h
  exact State.store_wf (t := u) h1 hm

/-- A push goes through where SP points at a writable address. -/
theorem State.push_of_writable {s : State} (v : Byte) (h : s.writable s.sp = true) :
    ∃ t, s.push v = .ok t := by
  obtain ⟨u, h1⟩ := State.store_of_writable v h
  exact ⟨{ u with sp := s.sp - 1 }, by simp only [State.push, h1, Result.ok_bind]⟩

/-- What one more push stores. -/
theorem State.Wrote.push {s t u : State} {l : List (Word × Byte)} {v : Byte} (h : s.Wrote t l)
    (hp : t.params = s.params) (hs : t.push v = .ok u) (hm : t.mem.wf = true) :
    s.Wrote u ((t.sp, v) :: l) := by
  obtain ⟨w, h1, rfl⟩ := State.push_cases hs
  exact (h.cons hp h1 hm).congr rfl

/-- What a push stores. -/
theorem State.push_wrote {s t : State} {v : Byte} (h : s.push v = .ok t) (hm : s.mem.wf = true) :
    s.Wrote t [(s.sp, v)] :=
  (State.Wrote.nil rfl).push rfl h hm

/-- A pull is a load from SP + 1, which becomes SP; nothing else changes. -/
theorem State.pull_eq_ok {s t : State} {v : Byte} :
    s.pull = .ok (v, t) ↔
      s.load (s.sp + 1) = .ok v ∧ t = { s.afterRead (s.sp + 1) with sp := s.sp + 1 } := by
  simp only [State.pull, Result.bind_eq_ok, Except.ok.injEq, Prod.mk.injEq]
  constructor
  · rintro ⟨w, h1, rfl, rfl⟩
    exact ⟨h1, rfl⟩
  · rintro ⟨h1, rfl⟩
    exact ⟨v, h1, rfl, rfl⟩

/-- Pushing a return address is two pushes, the low byte first. -/
theorem State.pushWord_cases {s t : State} {w : Word} (h : s.pushWord w = .ok t) :
    ∃ s1, s.push (loByte w) = .ok s1 ∧ s1.push (hiByte w) = .ok t := by
  simpa only [State.pushWord, Result.bind_eq_ok] using h

/-- Pushing a return address changes memory, the devices' state and SP only. -/
theorem State.pushWord_frame {s t : State} {w : Word} (h : s.pushWord w = .ok t) :
    t = { s with
      mem := t.mem, io := s.ioAfter [.write s.sp (loByte w), .write (s.sp - 1) (hiByte w)],
      sp := s.sp - 1 - 1 } := by
  obtain ⟨s1, h1, h2⟩ := State.pushWord_cases h
  have f1 := State.push_frame h1
  rw [State.push_frame h2,
    State.ioAfter_append (s := s) (l := [.write s.sp (loByte w)]) (by rw [f1]) (by rw [f1]) (by rw [f1]), f1]
  rfl

/-- Pushing a return address keeps memory's canonical form. -/
theorem State.pushWord_wf {s t : State} {w : Word} (h : s.pushWord w = .ok t) (hm : s.mem.wf = true) :
    t.mem.wf = true := by
  obtain ⟨s1, h1, h2⟩ := State.pushWord_cases h
  exact State.push_wf h2 (State.push_wf h1 hm)

/-- What pushing a return address stores. -/
theorem State.pushWord_wrote {s t : State} {w : Word} (h : s.pushWord w = .ok t)
    (hm : s.mem.wf = true) : s.Wrote t [(s.sp - 1, hiByte w), (s.sp, loByte w)] := by
  obtain ⟨s1, h1, h2⟩ := State.pushWord_cases h
  have hs1 := State.push_frame h1
  have := (State.push_wrote h1 hm).push (by rw [hs1]) h2 (State.push_wf h1 hm)
  rwa [show s1.sp = s.sp - 1 by rw [hs1]] at this

/-- Pushing a return address goes through where both stack bytes are writable. -/
theorem State.pushWord_of_writable {s : State} (w : Word) (h : s.writable s.sp = true)
    (h' : s.writable (s.sp - 1) = true) : ∃ t, s.pushWord w = .ok t := by
  obtain ⟨s1, h1⟩ := State.push_of_writable (loByte w) h
  have hs1 := State.push_frame h1
  have hw : s1.writable s1.sp = true := by
    rw [State.writable_congr (show s1.params = s.params by rw [hs1]), show s1.sp = s.sp - 1 by rw [hs1]]
    exact h'
  obtain ⟨t, h2⟩ := State.push_of_writable (hiByte w) hw
  exact ⟨t, by simp only [State.pushWord, h1, Result.ok_bind, h2]⟩

/-- Pulling a return address is two loads above SP, the high byte first. -/
theorem State.pullWord_eq_ok {s t : State} {w : Word} :
    s.pullWord = .ok (w, t) ↔
      ∃ hi lo, s.Reads [(s.sp + 1, hi), (s.sp + 1 + 1, lo)] ∧ w = wordOf hi lo ∧
        t = { s with
          io := s.ioAfter [.read (s.sp + 1), .read (s.sp + 1 + 1)], sp := s.sp + 1 + 1 } := by
  simp only [State.pullWord, Result.bind_eq_ok, Except.ok.injEq, Prod.mk.injEq, Prod.exists,
    State.pull_eq_ok]
  constructor
  · rintro ⟨hi, s1, ⟨h1, rfl⟩, lo, s2, ⟨h2, rfl⟩, rfl, rfl⟩
    exact ⟨hi, lo, ⟨h1, h2, trivial⟩, rfl, rfl⟩
  · rintro ⟨hi, lo, ⟨h1, h2, -⟩, rfl, rfl⟩
    exact ⟨hi, _, ⟨h1, rfl⟩, lo, _, ⟨h2, rfl⟩, rfl, rfl⟩

/-! ## Exceptions and reset -/

/-- The accesses of five pushes: the return address, X, A and the CCR byte. -/
def State.pushAccesses (s : State) (ret : Word) : List Access :=
  [.write s.sp (loByte ret), .write (s.sp - 1) (hiByte ret), .write (s.sp - 2) s.x, .write (s.sp - 3) s.a,
    .write (s.sp - 4) s.ccr.toByte]

/-- Taking an exception: the five stores, SP down by five, I set, PC from the vector, and nothing else. -/
theorem State.takeException_cases {s t : State} {ret vec : Word} (h : s.takeException ret vec = .ok t)
    (hm : s.mem.wf = true) :
    t = { s with
        mem := t.mem, io := s.ioAfter (s.pushAccesses ret ++ [.read vec, .read (vec + 1)]), sp := s.sp - 5,
        ccr := { s.ccr with i := true }, pc := t.pc } ∧
      t.mem.wf = true ∧
      State.loadWord { t with io := s.ioAfter (s.pushAccesses ret) } vec = .ok t.pc ∧
      s.Wrote t [(s.sp - 4, s.ccr.toByte), (s.sp - 3, s.a), (s.sp - 2, s.x), (s.sp - 1, hiByte ret),
        (s.sp, loByte ret)] := by
  simp only [State.takeException, Result.bind_eq_ok, Except.ok.injEq] at h
  obtain ⟨s1, h1, s2, h2, s3, h3, s4, h4, target, h5, rfl⟩ := h
  have f1 := State.pushWord_frame h1
  have f2 := State.push_frame h2
  have f3 := State.push_frame h3
  have f4 := State.push_frame h4
  have w1 := State.pushWord_wf h1 hm
  have w2 := State.push_wf h2 w1
  have w3 := State.push_wf h3 w2
  have w4 := State.push_wf h4 w3
  have p1 : s1.params = s.params := by rw [f1]
  have p2 : s2.params = s.params := by rw [f2]; exact p1
  have p3 : s3.params = s.params := by rw [f3]; exact p2
  have e1 : s1.sp = s.sp - 2 := by rw [f1]; bv_omega
  have e2 : s2.sp = s.sp - 3 := by rw [f2]; simp only [e1]; bv_omega
  have e3 : s3.sp = s.sp - 4 := by rw [f3]; simp only [e2]; bv_omega
  have e4 : s4.sp = s.sp - 5 := by rw [f4]; simp only [e3]; bv_omega
  have wr := (((State.pushWord_wrote h1 hm).push p1 h2 w1).push p2 h3 w2).push p3 h4 w3
  rw [e1, e2, e3] at wr
  have p4 : s4.params = s.params := by rw [f4]; exact p3
  have d1 : s1.draws = s.draws := by rw [f1]
  have d2 : s2.draws = s.draws := by rw [f2]; exact d1
  have d3 : s3.draws = s.draws := by rw [f3]; exact d2
  have d4 : s4.draws = s.draws := by rw [f4]; exact d3
  have i1 : s1.io = s.ioAfter [.write s.sp (loByte ret), .write (s.sp - 1) (hiByte ret)] := by rw [f1]
  have i2 := (show s2.io = s1.ioAfter [.write s1.sp s.x] by rw [f2]).trans (State.ioAfter_append p1 d1 i1 _)
  have i3 := (show s3.io = s2.ioAfter [.write s2.sp s.a] by rw [f3]).trans (State.ioAfter_append p2 d2 i2 _)
  have i4 := (show s4.io = s3.ioAfter [.write s3.sp s.ccr.toByte] by rw [f4]).trans
    (State.ioAfter_append p3 d3 i3 _)
  rw [e1, e2, e3] at i4
  replace i4 : s4.io = s.ioAfter (s.pushAccesses ret) := i4
  refine ⟨?_, w4, ?_, wr.congr rfl⟩
  · rw [← State.ioAfter_append p4 d4 i4, ← e4, f4, f3, f2, f1]
  · rw [← h5]
    simp [State.loadWord, State.load, State.loadAs, State.kindAt, State.byteAt, State.afterRead,
      State.ioAfter, State.ioStep, i4]

/-- Taking an exception goes through where the five stack bytes are writable and the vector readable. -/
theorem State.takeException_of_accessible {s : State} {ret vec : Word}
    (h0 : s.writable s.sp = true) (h1 : s.writable (s.sp - 1) = true)
    (h2 : s.writable (s.sp - 2) = true) (h3 : s.writable (s.sp - 3) = true)
    (h4 : s.writable (s.sp - 4) = true) (hv : s.readable vec = true)
    (hv' : s.readable (vec + 1) = true) : ∃ t, s.takeException ret vec = .ok t := by
  obtain ⟨s1, e1⟩ := State.pushWord_of_writable ret h0 h1
  have f1 := State.pushWord_frame e1
  have p1 : s1.params = s.params := by rw [f1]
  have q1 : s1.sp = s.sp - 2 := by rw [f1]; bv_omega
  obtain ⟨s2, e2⟩ := State.push_of_writable (s := s1) s.x (by rw [State.writable_congr p1, q1]; exact h2)
  have f2 := State.push_frame e2
  have p2 : s2.params = s.params := by rw [f2]; exact p1
  have q2 : s2.sp = s.sp - 3 := by rw [f2]; simp only [q1]; bv_omega
  obtain ⟨s3, e3⟩ := State.push_of_writable (s := s2) s.a (by rw [State.writable_congr p2, q2]; exact h3)
  have f3 := State.push_frame e3
  have p3 : s3.params = s.params := by rw [f3]; exact p2
  have q3 : s3.sp = s.sp - 4 := by rw [f3]; simp only [q2]; bv_omega
  obtain ⟨s4, e4⟩ := State.push_of_writable (s := s3) s.ccr.toByte
    (by rw [State.writable_congr p3, q3]; exact h4)
  have p4 : s4.params = s.params := by rw [State.push_frame e4]; exact p3
  obtain ⟨hi, l1⟩ := State.load_of_readable (s := s4) (a := vec) (by rw [State.readable_congr p4]; exact hv)
  obtain ⟨lo, l2⟩ := State.load_of_readable (s := s4.afterRead vec) (a := vec + 1)
    (by rw [State.readable_congr (t := s4.afterRead vec) (s := s) p4]; exact hv')
  refine ⟨{ s4 with
    io := s4.ioAfter [.read vec, .read (vec + 1)], ccr := { s.ccr with i := true }, pc := wordOf hi lo }, ?_⟩
  simp only [State.takeException, e1, e2, e3, e4, State.loadWord, l1, l2, Result.ok_bind]

/-- Returning from an exception: five loads above SP, SP up by five, and nothing else. -/
theorem State.returnFromException_eq_ok {s t : State} :
    s.returnFromException = .ok t ↔
      ∃ flags a x hi lo,
        s.Reads [(s.sp + 1, flags), (s.sp + 2, a), (s.sp + 3, x), (s.sp + 4, hi), (s.sp + 5, lo)] ∧
        t = { s with
          io := s.ioAfter ([s.sp + 1, s.sp + 2, s.sp + 3, s.sp + 4, s.sp + 5].map .read)
          sp := s.sp + 5, ccr := Ccr.ofByte flags, a := a, x := x, pc := wordOf hi lo } := by
  have e : ∀ k l m : Word, k + l = m → s.sp + m = s.sp + k + l := by
    intro k l m h
    rw [BitVec.add_assoc, h]
  simp only [State.returnFromException, Result.bind_eq_ok, Except.ok.injEq, Prod.exists, State.pull_eq_ok,
    State.pullWord_eq_ok]
  rw [e 4 1 5 rfl, e 3 1 4 rfl, e 2 1 3 rfl, e 1 1 2 rfl]
  constructor
  · rintro ⟨f, s1, ⟨h1, rfl⟩, a, s2, ⟨h2, rfl⟩, x, s3, ⟨h3, rfl⟩, w, s4, ⟨hi, lo, ⟨h4, h5, -⟩, rfl, rfl⟩,
      rfl⟩
    exact ⟨f, a, x, hi, lo, ⟨h1, h2, h3, h4, h5, trivial⟩, rfl⟩
  · rintro ⟨f, a, x, hi, lo, ⟨h1, h2, h3, h4, h5, -⟩, rfl⟩
    exact ⟨f, _, ⟨h1, rfl⟩, a, _, ⟨h2, rfl⟩, x, _, ⟨h3, rfl⟩, wordOf hi lo, _,
      ⟨hi, lo, ⟨h4, h5, trivial⟩, rfl, rfl⟩, rfl⟩

/-- A reset entry: what R441 sets, the devices reset before the vector is read, memory and everything else
kept. -/
theorem State.resetEntry_cases {s t : State} (h : s.resetEntry = .ok t) :
    State.loadWord { s with io := Config.deviceAfterReset s.io s.draws } s.params.vecReset = .ok t.pc ∧
      t = { s with
        io := State.ioAfter { s with io := Config.deviceAfterReset s.io s.draws }
          [.read s.params.vecReset, .read (s.params.vecReset + 1)]
        runState := .running, cliDelay := false, sp := s.params.resetSp, h := s.params.resetH, a := t.a, x := t.x
        ccr := { t.ccr with i := true }, pc := t.pc } := by
  simp only [State.resetEntry, Result.bind_eq_ok, Except.ok.injEq] at h
  obtain ⟨target, h1, rfl⟩ := h
  exact ⟨h1, rfl⟩

/-- A reset entry goes through where the reset vector is readable. -/
theorem State.resetEntry_of_readable {s : State} (h : s.readable s.params.vecReset = true)
    (h' : s.readable (s.params.vecReset + 1) = true) : ∃ t, s.resetEntry = .ok t := by
  let u : State := { s with io := Config.deviceAfterReset s.io s.draws }
  obtain ⟨hi, h1⟩ := State.load_of_readable (s := u) (a := s.params.vecReset) h
  obtain ⟨lo, h2⟩ := State.load_of_readable (s := u.afterRead s.params.vecReset) (a := s.params.vecReset + 1) h'
  have hw : u.loadWord s.params.vecReset = .ok (wordOf hi lo) := State.loadWord_eq_ok.2 ⟨hi, lo, h1, h2, rfl⟩
  simp only [u] at hw
  simp only [State.resetEntry, hw, Result.ok_bind, Except.ok.injEq, exists_eq']

/-! ## The shapes of instructions -/

/-- An instruction with a source operand answers what its action makes of the operand's value. -/
theorem withSrc_eq_ok {o : Src} {s t : State} {f : Byte → State} :
    withSrc o s f = .ok t ↔
      ∃ v, o.value s = .ok v ∧ t = { f v with io := s.ioAfter (o.accesses s) }.advance o.length := by
  simp only [withSrc, Result.bind_eq_ok, Except.ok.injEq]
  exact exists_congr fun v => and_congr_right fun _ => eq_comm

/-- A register store: the store, then the flags and PC. -/
theorem storeReg_cases {v : Byte} {m : MemRef} {s t : State} (h : storeReg v m s = .ok t) :
    ∃ u, s.store (m.ea s) v = .ok u ∧ t = { u with ccr := s.ccr.afterMove v }.advance m.length := by
  simp only [storeReg, Result.bind_eq_ok, Except.ok.injEq] at h
  obtain ⟨u, h1, rfl⟩ := h
  exact ⟨u, h1, rfl⟩

/-- A read-modify-write: one load and one store of the same address, then the flags and PC. -/
theorem onMem_cases {op : Ccr → Byte → Byte × Ccr} {m : MemRef} {s t : State} (h : onMem op m s = .ok t) :
    ∃ v u, s.load (m.ea s) = .ok v ∧ (s.afterRead (m.ea s)).store (m.ea s) (op s.ccr v).1 = .ok u ∧
      t = { u with ccr := (op s.ccr v).2 }.advance m.length := by
  simp only [onMem, Result.bind_eq_ok, Except.ok.injEq] at h
  obtain ⟨v, h1, u, h2, rfl⟩ := h
  exact ⟨v, u, h1, h2, rfl⟩

/-- A push instruction: the push, then PC. -/
theorem pushReg_cases {v : Byte} {s t : State} (h : pushReg v s = .ok t) :
    ∃ u, s.push v = .ok u ∧ t = u.advance 1 := by
  simp only [pushReg, Result.bind_eq_ok, Except.ok.injEq] at h
  obtain ⟨u, h1, rfl⟩ := h
  exact ⟨u, h1, rfl⟩

/-- BSET and BCLR: one load and one store of the direct-page byte, then PC. -/
theorem modifyDirect_cases {f : Byte → Byte} {dd : Byte} {s t : State} (h : modifyDirect f dd s = .ok t) :
    ∃ v u, s.load (zext16 dd) = .ok v ∧ (s.afterRead (zext16 dd)).store (zext16 dd) (f v) = .ok u ∧
      t = u.advance 2 := by
  simp only [modifyDirect, Result.bind_eq_ok, Except.ok.injEq] at h
  obtain ⟨v, h1, u, h2, rfl⟩ := h
  exact ⟨v, u, h1, h2, rfl⟩

/-- BRSET and BRCLR: one load, C the tested bit, then the branch. -/
theorem testBitBranch_cases {want : Bool} {n : Fin 8} {dd rr : Byte} {s t : State}
    (h : testBitBranch want n dd rr s = .ok t) :
    ∃ v, s.load (zext16 dd) = .ok v ∧
      t = { s.afterRead (zext16 dd) with ccr := { s.ccr with c := v.getLsbD n.val } }.branch 3 rr
        (v.getLsbD n.val == want) := by
  simp only [testBitBranch, Result.bind_eq_ok, Except.ok.injEq] at h
  obtain ⟨v, h1, rfl⟩ := h
  exact ⟨v, h1, rfl⟩

/-- A call: the return address pushed, then PC. -/
theorem callTo_cases {s t : State} {ret target : Word} (h : callTo s ret target = .ok t) :
    ∃ u, s.pushWord ret = .ok u ∧ t = { u with pc := target } := by
  simp only [callTo, Result.bind_eq_ok, Except.ok.injEq] at h
  obtain ⟨u, h1, rfl⟩ := h
  exact ⟨u, h1, rfl⟩

end Sys2Proof.Machine
end

