-- ==== Sys2Proof/Laws/PerInstr.lean ====
section
/-! SUPPORT. A family over every instruction: the encoding of a well-formed instruction is as long as the
instruction's length says (30_encoding.md R81). -/

namespace Sys2Proof.Laws

open Sys2Proof

/-- The encoding of the instruction has its length. -/
def EncodeLength.Statement (i : Instr) : Prop := i.wf = true → (encode i).length = i.length

theorem EncodeLength.brset (n : Fin 8) (dd rr : Byte) : EncodeLength.Statement (.brset n dd rr) :=
    fun _ => rfl

theorem EncodeLength.brclr (n : Fin 8) (dd rr : Byte) : EncodeLength.Statement (.brclr n dd rr) :=
    fun _ => rfl

theorem EncodeLength.bset (n : Fin 8) (dd : Byte) : EncodeLength.Statement (.bset n dd) := fun _ => rfl

theorem EncodeLength.bclr (n : Fin 8) (dd : Byte) : EncodeLength.Statement (.bclr n dd) := fun _ => rfl

theorem EncodeLength.bra (rr : Byte) : EncodeLength.Statement (.bra rr) := fun _ => rfl

theorem EncodeLength.brn (rr : Byte) : EncodeLength.Statement (.brn rr) := fun _ => rfl

theorem EncodeLength.bhi (rr : Byte) : EncodeLength.Statement (.bhi rr) := fun _ => rfl

theorem EncodeLength.bls (rr : Byte) : EncodeLength.Statement (.bls rr) := fun _ => rfl

theorem EncodeLength.bcc (rr : Byte) : EncodeLength.Statement (.bcc rr) := fun _ => rfl

theorem EncodeLength.bcs (rr : Byte) : EncodeLength.Statement (.bcs rr) := fun _ => rfl

theorem EncodeLength.bne (rr : Byte) : EncodeLength.Statement (.bne rr) := fun _ => rfl

theorem EncodeLength.beq (rr : Byte) : EncodeLength.Statement (.beq rr) := fun _ => rfl

theorem EncodeLength.bhcc (rr : Byte) : EncodeLength.Statement (.bhcc rr) := fun _ => rfl

theorem EncodeLength.bhcs (rr : Byte) : EncodeLength.Statement (.bhcs rr) := fun _ => rfl

theorem EncodeLength.bpl (rr : Byte) : EncodeLength.Statement (.bpl rr) := fun _ => rfl

theorem EncodeLength.bmi (rr : Byte) : EncodeLength.Statement (.bmi rr) := fun _ => rfl

theorem EncodeLength.bmc (rr : Byte) : EncodeLength.Statement (.bmc rr) := fun _ => rfl

theorem EncodeLength.bms (rr : Byte) : EncodeLength.Statement (.bms rr) := fun _ => rfl

theorem EncodeLength.bil (rr : Byte) : EncodeLength.Statement (.bil rr) := fun _ => rfl

theorem EncodeLength.bih (rr : Byte) : EncodeLength.Statement (.bih rr) := fun _ => rfl

theorem EncodeLength.neg (m : MemRef) : EncodeLength.Statement (.neg m) := by
  intro h
  cases m <;> first | rfl | cases h

theorem EncodeLength.cbeq (m : CbeqRef) (rr : Byte) : EncodeLength.Statement (.cbeq m rr) := by
  intro _
  cases m <;> rfl

theorem EncodeLength.com (m : MemRef) : EncodeLength.Statement (.com m) := by
  intro h
  cases m <;> first | rfl | cases h

theorem EncodeLength.lsr (m : MemRef) : EncodeLength.Statement (.lsr m) := by
  intro h
  cases m <;> first | rfl | cases h

theorem EncodeLength.sthx (dd : Byte) : EncodeLength.Statement (.sthx dd) := fun _ => rfl

theorem EncodeLength.ror (m : MemRef) : EncodeLength.Statement (.ror m) := by
  intro h
  cases m <;> first | rfl | cases h

theorem EncodeLength.asr (m : MemRef) : EncodeLength.Statement (.asr m) := by
  intro h
  cases m <;> first | rfl | cases h

theorem EncodeLength.lsl (m : MemRef) : EncodeLength.Statement (.lsl m) := by
  intro h
  cases m <;> first | rfl | cases h

theorem EncodeLength.rol (m : MemRef) : EncodeLength.Statement (.rol m) := by
  intro h
  cases m <;> first | rfl | cases h

theorem EncodeLength.dec (m : MemRef) : EncodeLength.Statement (.dec m) := by
  intro h
  cases m <;> first | rfl | cases h

theorem EncodeLength.dbnz (m : MemRef) (rr : Byte) : EncodeLength.Statement (.dbnz m rr) := by
  intro h
  cases m <;> first | rfl | cases h

theorem EncodeLength.inc (m : MemRef) : EncodeLength.Statement (.inc m) := by
  intro h
  cases m <;> first | rfl | cases h

theorem EncodeLength.tst (m : MemRef) : EncodeLength.Statement (.tst m) := by
  intro h
  cases m <;> first | rfl | cases h

theorem EncodeLength.clr (m : MemRef) : EncodeLength.Statement (.clr m) := by
  intro h
  cases m <;> first | rfl | cases h

theorem EncodeLength.nega : EncodeLength.Statement (.nega) := fun _ => rfl

theorem EncodeLength.cbeqa (ii rr : Byte) : EncodeLength.Statement (.cbeqa ii rr) := fun _ => rfl

theorem EncodeLength.mul : EncodeLength.Statement (.mul) := fun _ => rfl

theorem EncodeLength.coma : EncodeLength.Statement (.coma) := fun _ => rfl

theorem EncodeLength.lsra : EncodeLength.Statement (.lsra) := fun _ => rfl

theorem EncodeLength.ldhx (w : WideSrc) : EncodeLength.Statement (.ldhx w) := by
  intro _
  cases w <;> rfl

theorem EncodeLength.rora : EncodeLength.Statement (.rora) := fun _ => rfl

theorem EncodeLength.asra : EncodeLength.Statement (.asra) := fun _ => rfl

theorem EncodeLength.lsla : EncodeLength.Statement (.lsla) := fun _ => rfl

theorem EncodeLength.rola : EncodeLength.Statement (.rola) := fun _ => rfl

theorem EncodeLength.deca : EncodeLength.Statement (.deca) := fun _ => rfl

theorem EncodeLength.dbnza (rr : Byte) : EncodeLength.Statement (.dbnza rr) := fun _ => rfl

theorem EncodeLength.inca : EncodeLength.Statement (.inca) := fun _ => rfl

theorem EncodeLength.tsta : EncodeLength.Statement (.tsta) := fun _ => rfl

theorem EncodeLength.mov (f : MovForm) : EncodeLength.Statement (.mov f) := by
  intro _
  cases f <;> rfl

theorem EncodeLength.clra : EncodeLength.Statement (.clra) := fun _ => rfl

theorem EncodeLength.negx : EncodeLength.Statement (.negx) := fun _ => rfl

theorem EncodeLength.cbeqx (ii rr : Byte) : EncodeLength.Statement (.cbeqx ii rr) := fun _ => rfl

theorem EncodeLength.div : EncodeLength.Statement (.div) := fun _ => rfl

theorem EncodeLength.comx : EncodeLength.Statement (.comx) := fun _ => rfl

theorem EncodeLength.lsrx : EncodeLength.Statement (.lsrx) := fun _ => rfl

theorem EncodeLength.rorx : EncodeLength.Statement (.rorx) := fun _ => rfl

theorem EncodeLength.asrx : EncodeLength.Statement (.asrx) := fun _ => rfl

theorem EncodeLength.lslx : EncodeLength.Statement (.lslx) := fun _ => rfl

theorem EncodeLength.rolx : EncodeLength.Statement (.rolx) := fun _ => rfl

theorem EncodeLength.decx : EncodeLength.Statement (.decx) := fun _ => rfl

theorem EncodeLength.dbnzx (rr : Byte) : EncodeLength.Statement (.dbnzx rr) := fun _ => rfl

theorem EncodeLength.incx : EncodeLength.Statement (.incx) := fun _ => rfl

theorem EncodeLength.tstx : EncodeLength.Statement (.tstx) := fun _ => rfl

theorem EncodeLength.clrx : EncodeLength.Statement (.clrx) := fun _ => rfl

theorem EncodeLength.nsa : EncodeLength.Statement (.nsa) := fun _ => rfl

theorem EncodeLength.cphx (w : WideSrc) : EncodeLength.Statement (.cphx w) := by
  intro _
  cases w <;> rfl

theorem EncodeLength.daa : EncodeLength.Statement (.daa) := fun _ => rfl

theorem EncodeLength.rti : EncodeLength.Statement (.rti) := fun _ => rfl

theorem EncodeLength.rts : EncodeLength.Statement (.rts) := fun _ => rfl

theorem EncodeLength.swi : EncodeLength.Statement (.swi) := fun _ => rfl

theorem EncodeLength.tap : EncodeLength.Statement (.tap) := fun _ => rfl

theorem EncodeLength.tpa : EncodeLength.Statement (.tpa) := fun _ => rfl

theorem EncodeLength.pula : EncodeLength.Statement (.pula) := fun _ => rfl

theorem EncodeLength.psha : EncodeLength.Statement (.psha) := fun _ => rfl

theorem EncodeLength.pulx : EncodeLength.Statement (.pulx) := fun _ => rfl

theorem EncodeLength.pshx : EncodeLength.Statement (.pshx) := fun _ => rfl

theorem EncodeLength.pulh : EncodeLength.Statement (.pulh) := fun _ => rfl

theorem EncodeLength.pshh : EncodeLength.Statement (.pshh) := fun _ => rfl

theorem EncodeLength.clrh : EncodeLength.Statement (.clrh) := fun _ => rfl

theorem EncodeLength.stop : EncodeLength.Statement (.stop) := fun _ => rfl

theorem EncodeLength.wait : EncodeLength.Statement (.wait) := fun _ => rfl

theorem EncodeLength.bge (rr : Byte) : EncodeLength.Statement (.bge rr) := fun _ => rfl

theorem EncodeLength.blt (rr : Byte) : EncodeLength.Statement (.blt rr) := fun _ => rfl

theorem EncodeLength.bgt (rr : Byte) : EncodeLength.Statement (.bgt rr) := fun _ => rfl

theorem EncodeLength.ble (rr : Byte) : EncodeLength.Statement (.ble rr) := fun _ => rfl

theorem EncodeLength.txs : EncodeLength.Statement (.txs) := fun _ => rfl

theorem EncodeLength.tsx : EncodeLength.Statement (.tsx) := fun _ => rfl

theorem EncodeLength.tax : EncodeLength.Statement (.tax) := fun _ => rfl

theorem EncodeLength.clc : EncodeLength.Statement (.clc) := fun _ => rfl

theorem EncodeLength.sec : EncodeLength.Statement (.sec) := fun _ => rfl

theorem EncodeLength.cli : EncodeLength.Statement (.cli) := fun _ => rfl

theorem EncodeLength.sei : EncodeLength.Statement (.sei) := fun _ => rfl

theorem EncodeLength.rsp : EncodeLength.Statement (.rsp) := fun _ => rfl

theorem EncodeLength.nop : EncodeLength.Statement (.nop) := fun _ => rfl

theorem EncodeLength.txa : EncodeLength.Statement (.txa) := fun _ => rfl

theorem EncodeLength.sub (o : Src) : EncodeLength.Statement (.sub o) := by
  intro _
  cases o with
  | imm ii => rfl
  | mem m => cases m <;> rfl

theorem EncodeLength.cmp (o : Src) : EncodeLength.Statement (.cmp o) := by
  intro _
  cases o with
  | imm ii => rfl
  | mem m => cases m <;> rfl

theorem EncodeLength.sbc (o : Src) : EncodeLength.Statement (.sbc o) := by
  intro _
  cases o with
  | imm ii => rfl
  | mem m => cases m <;> rfl

theorem EncodeLength.cpx (o : Src) : EncodeLength.Statement (.cpx o) := by
  intro _
  cases o with
  | imm ii => rfl
  | mem m => cases m <;> rfl

theorem EncodeLength.and (o : Src) : EncodeLength.Statement (.and o) := by
  intro _
  cases o with
  | imm ii => rfl
  | mem m => cases m <;> rfl

theorem EncodeLength.bit (o : Src) : EncodeLength.Statement (.bit o) := by
  intro _
  cases o with
  | imm ii => rfl
  | mem m => cases m <;> rfl

theorem EncodeLength.lda (o : Src) : EncodeLength.Statement (.lda o) := by
  intro _
  cases o with
  | imm ii => rfl
  | mem m => cases m <;> rfl

theorem EncodeLength.ais (ii : Byte) : EncodeLength.Statement (.ais ii) := fun _ => rfl

theorem EncodeLength.eor (o : Src) : EncodeLength.Statement (.eor o) := by
  intro _
  cases o with
  | imm ii => rfl
  | mem m => cases m <;> rfl

theorem EncodeLength.adc (o : Src) : EncodeLength.Statement (.adc o) := by
  intro _
  cases o with
  | imm ii => rfl
  | mem m => cases m <;> rfl

theorem EncodeLength.ora (o : Src) : EncodeLength.Statement (.ora o) := by
  intro _
  cases o with
  | imm ii => rfl
  | mem m => cases m <;> rfl

theorem EncodeLength.add (o : Src) : EncodeLength.Statement (.add o) := by
  intro _
  cases o with
  | imm ii => rfl
  | mem m => cases m <;> rfl

theorem EncodeLength.bsr (rr : Byte) : EncodeLength.Statement (.bsr rr) := fun _ => rfl

theorem EncodeLength.ldx (o : Src) : EncodeLength.Statement (.ldx o) := by
  intro _
  cases o with
  | imm ii => rfl
  | mem m => cases m <;> rfl

theorem EncodeLength.aix (ii : Byte) : EncodeLength.Statement (.aix ii) := fun _ => rfl

theorem EncodeLength.sta (m : MemRef) : EncodeLength.Statement (.sta m) := by
  intro _
  cases m <;> rfl

theorem EncodeLength.jmp (m : MemRef) : EncodeLength.Statement (.jmp m) := by
  intro h
  cases m <;> first | rfl | cases h

theorem EncodeLength.jsr (m : MemRef) : EncodeLength.Statement (.jsr m) := by
  intro h
  cases m <;> first | rfl | cases h

theorem EncodeLength.stx (m : MemRef) : EncodeLength.Statement (.stx m) := by
  intro _
  cases m <;> rfl

end Sys2Proof.Laws
end

