-- ==== Sys2Proof/Machine/Timing.lean ====
section
/-! DEFINITION. The cycle counts of 70_reset_and_hazards.md R453, as data: no rule of the spec depends on
them (R452) and the step does not use them (log 28). One cycle is one bus clock period. -/

namespace Sys2Proof.Machine

open Sys2Proof

/-- STOP_RECOVERY_CYCLES: the oscillator's start-up after STOP ends (60_exceptions.md R422); no effect on
state (70_reset_and_hazards.md R452). -/
def stopRecoveryCycles : Nat := 1920

/-- A memory operand read once: LDA, ADD, TST and their like; also STA, STX and CLR. -/
def MemRef.accessCycles : MemRef → Nat
  | .ix => 2
  | .dir _ | .ix1 _ => 3
  | .ext _ | .ix2 _ | .sp1 _ => 4
  | .sp2 _ => 5

/-- The read-modify-write group. -/
def MemRef.modifyCycles : MemRef → Nat
  | .ix => 3
  | .dir _ | .ix1 _ => 4
  | .ext _ | .ix2 _ | .sp1 _ | .sp2 _ => 5

/-- JMP; JSR takes two more. -/
def MemRef.jumpCycles : MemRef → Nat
  | .ix | .dir _ => 2
  | .ext _ | .ix1 _ => 3
  | .ix2 _ | .sp1 _ | .sp2 _ => 4

/-- The column "HC08 cycles" of R453. -/
def cycles : Instr → Nat
  | .brset _ _ _ | .brclr _ _ _ => 5
  | .bset _ _ | .bclr _ _ | .sthx _ => 4
  | .bra _ | .brn _ | .bhi _ | .bls _ | .bcc _ | .bcs _ | .bne _ | .beq _ | .bhcc _ | .bhcs _
  | .bpl _ | .bmi _ | .bmc _ | .bms _ | .bil _ | .bih _ | .bge _ | .blt _ | .bgt _ | .ble _
  | .dbnza _ | .dbnzx _ => 3
  | .neg m | .com m | .lsr m | .ror m | .asr m | .lsl m | .rol m | .dec m | .inc m => MemRef.modifyCycles m
  | .dbnz m _ => MemRef.modifyCycles m + 1
  | .tst m | .clr m | .sta m | .stx m => MemRef.accessCycles m
  | .cbeq .ixInc _ => 4
  | .cbeq (.dir _) _ | .cbeq (.ix1Inc _) _ => 5
  | .cbeq (.sp1 _) _ => 6
  | .cbeqa _ _ | .cbeqx _ _ => 4
  | .mul => 5
  | .div => 7
  | .nsa => 3
  | .daa => 2
  | .ldhx (.imm16 _) | .cphx (.imm16 _) => 3
  | .ldhx (.dir _) | .cphx (.dir _) => 4
  | .mov (.dd _ _) => 5
  | .mov (.dixInc _) | .mov (.imd _ _) | .mov (.ixIncD _) => 4
  | .nega | .coma | .lsra | .rora | .asra | .lsla | .rola | .deca | .inca | .tsta | .clra
  | .negx | .comx | .lsrx | .rorx | .asrx | .lslx | .rolx | .decx | .incx | .tstx | .clrx
  | .tpa | .clrh | .stop | .wait | .tax | .clc | .sec | .rsp | .nop | .txa => 1
  | .tap | .pula | .psha | .pulx | .pshx | .pulh | .pshh | .txs | .tsx | .cli | .sei => 2
  | .rti => 7
  | .rts => 4
  | .swi => 9
  | .sub o | .cmp o | .sbc o | .cpx o | .and o | .bit o | .lda o | .eor o | .adc o | .ora o | .add o
  | .ldx o =>
    match o with
    | .imm _ => 2
    | .mem m => MemRef.accessCycles m
  | .ais _ | .aix _ => 2
  | .bsr _ => 4
  | .jmp m => MemRef.jumpCycles m
  | .jsr m => MemRef.jumpCycles m + 2

end Sys2Proof.Machine
end

