-- ==== Sys2Proof/Tests/Slice0.lean ====
section
/-! SUPPORT. The model's own tests, all with expected results from spec/: the well-formedness smoke, every row
of 30_encoding.md R111 decoded from its bytes, one single-step vector of 95_test_vectors.md for most
instructions (T<n> in a name is its row), and a witness for the hypotheses of each obligation. -/

open Sys2Proof Sys2Proof.Machine Sys2Proof.Claims

namespace Sys2Proof.Tests

/-! ## Well-formedness: modes an instruction does not have are refused (30_encoding.md R101, R111) -/

/-- The read-modify-write group has no EXT, IX2 or SP2 form. -/
def refusesRmw (mk : MemRef → Instr) : Bool :=
  !(mk (.ext 0x1234)).wf && !(mk (.ix2 0x1234)).wf && !(mk (.sp2 0x1234)).wf &&
    (mk (.dir 0x40)).wf && (mk (.ix1 0x40)).wf && (mk .ix).wf && (mk (.sp1 0x40)).wf

theorem test_wf_neg : refusesRmw .neg = true := by decide
theorem test_wf_com : refusesRmw .com = true := by decide
theorem test_wf_lsr : refusesRmw .lsr = true := by decide
theorem test_wf_ror : refusesRmw .ror = true := by decide
theorem test_wf_asr : refusesRmw .asr = true := by decide
theorem test_wf_lsl : refusesRmw .lsl = true := by decide
theorem test_wf_rol : refusesRmw .rol = true := by decide
theorem test_wf_dec : refusesRmw .dec = true := by decide
theorem test_wf_inc : refusesRmw .inc = true := by decide
theorem test_wf_tst : refusesRmw .tst = true := by decide
theorem test_wf_clr : refusesRmw .clr = true := by decide
theorem test_wf_dbnz : refusesRmw (.dbnz · 0x10) = true := by decide

/-- JMP and JSR have no form on SP. -/
theorem test_wf_jmp : (Instr.jmp (.sp1 0x10)).wf = false ∧ (Instr.jmp (.sp2 0x1234)).wf = false := by decide
theorem test_wf_jsr : (Instr.jsr (.sp1 0x10)).wf = false ∧ (Instr.jsr (.sp2 0x1234)).wf = false := by decide

/-! ## Decoding: every row of 30_encoding.md R111, its operand bytes distinct -/

/-- The bytes decode to the instruction, which leaves the byte after them. -/
def readsAs (bytes : List Byte) (i : Instr) : Bool :=
  match decode (bytes ++ [0x5A]) with
  | .ok (j, rest) => decide (j = i) && decide (rest = [0x5A])
  | .error _ => false

/-- `readsAs` of each row. -/
def allRead (rows : List (List Byte × Instr)) : Bool := rows.all fun r => readsAs r.1 r.2

theorem test_decode_page1_column_0 : allRead [
    ([0x00, 0x41, 0xF3], .brset 0 0x41 0xF3), ([0x01, 0x41, 0xF3], .brclr 0 0x41 0xF3),
    ([0x02, 0x41, 0xF3], .brset 1 0x41 0xF3), ([0x03, 0x41, 0xF3], .brclr 1 0x41 0xF3),
    ([0x04, 0x41, 0xF3], .brset 2 0x41 0xF3), ([0x05, 0x41, 0xF3], .brclr 2 0x41 0xF3),
    ([0x06, 0x41, 0xF3], .brset 3 0x41 0xF3), ([0x07, 0x41, 0xF3], .brclr 3 0x41 0xF3),
    ([0x08, 0x41, 0xF3], .brset 4 0x41 0xF3), ([0x09, 0x41, 0xF3], .brclr 4 0x41 0xF3),
    ([0x0A, 0x41, 0xF3], .brset 5 0x41 0xF3), ([0x0B, 0x41, 0xF3], .brclr 5 0x41 0xF3),
    ([0x0C, 0x41, 0xF3], .brset 6 0x41 0xF3), ([0x0D, 0x41, 0xF3], .brclr 6 0x41 0xF3),
    ([0x0E, 0x41, 0xF3], .brset 7 0x41 0xF3), ([0x0F, 0x41, 0xF3], .brclr 7 0x41 0xF3)] = true := by
  decide

theorem test_decode_page1_column_1 : allRead [
    ([0x10, 0x41], .bset 0 0x41), ([0x11, 0x41], .bclr 0 0x41), ([0x12, 0x41], .bset 1 0x41),
    ([0x13, 0x41], .bclr 1 0x41), ([0x14, 0x41], .bset 2 0x41), ([0x15, 0x41], .bclr 2 0x41),
    ([0x16, 0x41], .bset 3 0x41), ([0x17, 0x41], .bclr 3 0x41), ([0x18, 0x41], .bset 4 0x41),
    ([0x19, 0x41], .bclr 4 0x41), ([0x1A, 0x41], .bset 5 0x41), ([0x1B, 0x41], .bclr 5 0x41),
    ([0x1C, 0x41], .bset 6 0x41), ([0x1D, 0x41], .bclr 6 0x41), ([0x1E, 0x41], .bset 7 0x41),
    ([0x1F, 0x41], .bclr 7 0x41)] = true := by
  decide

theorem test_decode_page1_column_2 : allRead [
    ([0x20, 0xF3], .bra 0xF3), ([0x21, 0xF3], .brn 0xF3), ([0x22, 0xF3], .bhi 0xF3), ([0x23, 0xF3], .bls 0xF3),
    ([0x24, 0xF3], .bcc 0xF3), ([0x25, 0xF3], .bcs 0xF3), ([0x26, 0xF3], .bne 0xF3), ([0x27, 0xF3], .beq 0xF3),
    ([0x28, 0xF3], .bhcc 0xF3), ([0x29, 0xF3], .bhcs 0xF3), ([0x2A, 0xF3], .bpl 0xF3),
    ([0x2B, 0xF3], .bmi 0xF3), ([0x2C, 0xF3], .bmc 0xF3), ([0x2D, 0xF3], .bms 0xF3), ([0x2E, 0xF3], .bil 0xF3),
    ([0x2F, 0xF3], .bih 0xF3)] = true := by
  decide

theorem test_decode_page1_column_3 : allRead [
    ([0x30, 0x41], .neg (.dir 0x41)), ([0x31, 0x41, 0xF3], .cbeq (.dir 0x41) 0xF3),
    ([0x33, 0x41], .com (.dir 0x41)), ([0x34, 0x41], .lsr (.dir 0x41)), ([0x35, 0x41], .sthx 0x41),
    ([0x36, 0x41], .ror (.dir 0x41)), ([0x37, 0x41], .asr (.dir 0x41)), ([0x38, 0x41], .lsl (.dir 0x41)),
    ([0x39, 0x41], .rol (.dir 0x41)), ([0x3A, 0x41], .dec (.dir 0x41)),
    ([0x3B, 0x41, 0xF3], .dbnz (.dir 0x41) 0xF3), ([0x3C, 0x41], .inc (.dir 0x41)),
    ([0x3D, 0x41], .tst (.dir 0x41)), ([0x3F, 0x41], .clr (.dir 0x41))] = true := by
  decide

theorem test_decode_page1_column_4 : allRead [
    ([0x40], .nega), ([0x41, 0xC5, 0xF3], .cbeqa 0xC5 0xF3), ([0x42], .mul), ([0x43], .coma), ([0x44], .lsra),
    ([0x45, 0xC5, 0x6D], .ldhx (.imm16 0xC56D)), ([0x46], .rora), ([0x47], .asra), ([0x48], .lsla),
    ([0x49], .rola), ([0x4A], .deca), ([0x4B, 0xF3], .dbnza 0xF3), ([0x4C], .inca), ([0x4D], .tsta),
    ([0x4E, 0x41, 0x72], .mov (.dd 0x41 0x72)), ([0x4F], .clra)] = true := by
  decide

theorem test_decode_page1_column_5 : allRead [
    ([0x50], .negx), ([0x51, 0xC5, 0xF3], .cbeqx 0xC5 0xF3), ([0x52], .div), ([0x53], .comx), ([0x54], .lsrx),
    ([0x55, 0x41], .ldhx (.dir 0x41)), ([0x56], .rorx), ([0x57], .asrx), ([0x58], .lslx), ([0x59], .rolx),
    ([0x5A], .decx), ([0x5B, 0xF3], .dbnzx 0xF3), ([0x5C], .incx), ([0x5D], .tstx),
    ([0x5E, 0x41], .mov (.dixInc 0x41)), ([0x5F], .clrx)] = true := by
  decide

theorem test_decode_page1_column_6 : allRead [
    ([0x60, 0x9A], .neg (.ix1 0x9A)), ([0x61, 0x9A, 0xF3], .cbeq (.ix1Inc 0x9A) 0xF3), ([0x62], .nsa),
    ([0x63, 0x9A], .com (.ix1 0x9A)), ([0x64, 0x9A], .lsr (.ix1 0x9A)),
    ([0x65, 0xC5, 0x6D], .cphx (.imm16 0xC56D)), ([0x66, 0x9A], .ror (.ix1 0x9A)),
    ([0x67, 0x9A], .asr (.ix1 0x9A)), ([0x68, 0x9A], .lsl (.ix1 0x9A)), ([0x69, 0x9A], .rol (.ix1 0x9A)),
    ([0x6A, 0x9A], .dec (.ix1 0x9A)), ([0x6B, 0x9A, 0xF3], .dbnz (.ix1 0x9A) 0xF3),
    ([0x6C, 0x9A], .inc (.ix1 0x9A)), ([0x6D, 0x9A], .tst (.ix1 0x9A)),
    ([0x6E, 0xC5, 0x41], .mov (.imd 0xC5 0x41)), ([0x6F, 0x9A], .clr (.ix1 0x9A))] = true := by
  decide

theorem test_decode_page1_column_7 : allRead [
    ([0x70], .neg .ix), ([0x71, 0xF3], .cbeq .ixInc 0xF3), ([0x72], .daa), ([0x73], .com .ix),
    ([0x74], .lsr .ix), ([0x75, 0x41], .cphx (.dir 0x41)), ([0x76], .ror .ix), ([0x77], .asr .ix),
    ([0x78], .lsl .ix), ([0x79], .rol .ix), ([0x7A], .dec .ix), ([0x7B, 0xF3], .dbnz .ix 0xF3),
    ([0x7C], .inc .ix), ([0x7D], .tst .ix), ([0x7E, 0x41], .mov (.ixIncD 0x41)),
    ([0x7F], .clr .ix)] = true := by
  decide

theorem test_decode_page1_column_8 : allRead [
    ([0x80], .rti), ([0x81], .rts), ([0x83], .swi), ([0x84], .tap), ([0x85], .tpa), ([0x86], .pula),
    ([0x87], .psha), ([0x88], .pulx), ([0x89], .pshx), ([0x8A], .pulh), ([0x8B], .pshh), ([0x8C], .clrh),
    ([0x8E], .stop), ([0x8F], .wait)] = true := by
  decide

theorem test_decode_page1_column_9 : allRead [
    ([0x90, 0xF3], .bge 0xF3), ([0x91, 0xF3], .blt 0xF3), ([0x92, 0xF3], .bgt 0xF3), ([0x93, 0xF3], .ble 0xF3),
    ([0x94], .txs), ([0x95], .tsx), ([0x97], .tax), ([0x98], .clc), ([0x99], .sec), ([0x9A], .cli),
    ([0x9B], .sei), ([0x9C], .rsp), ([0x9D], .nop), ([0x9F], .txa)] = true := by
  decide

theorem test_decode_page1_column_a : allRead [
    ([0xA0, 0xC5], .sub (.imm 0xC5)), ([0xA1, 0xC5], .cmp (.imm 0xC5)), ([0xA2, 0xC5], .sbc (.imm 0xC5)),
    ([0xA3, 0xC5], .cpx (.imm 0xC5)), ([0xA4, 0xC5], .and (.imm 0xC5)), ([0xA5, 0xC5], .bit (.imm 0xC5)),
    ([0xA6, 0xC5], .lda (.imm 0xC5)), ([0xA7, 0xC5], .ais 0xC5), ([0xA8, 0xC5], .eor (.imm 0xC5)),
    ([0xA9, 0xC5], .adc (.imm 0xC5)), ([0xAA, 0xC5], .ora (.imm 0xC5)), ([0xAB, 0xC5], .add (.imm 0xC5)),
    ([0xAD, 0xF3], .bsr 0xF3), ([0xAE, 0xC5], .ldx (.imm 0xC5)), ([0xAF, 0xC5], .aix 0xC5)] = true := by
  decide

theorem test_decode_page1_column_b : allRead [
    ([0xB0, 0x41], .sub (.mem (.dir 0x41))), ([0xB1, 0x41], .cmp (.mem (.dir 0x41))),
    ([0xB2, 0x41], .sbc (.mem (.dir 0x41))), ([0xB3, 0x41], .cpx (.mem (.dir 0x41))),
    ([0xB4, 0x41], .and (.mem (.dir 0x41))), ([0xB5, 0x41], .bit (.mem (.dir 0x41))),
    ([0xB6, 0x41], .lda (.mem (.dir 0x41))), ([0xB7, 0x41], .sta (.dir 0x41)),
    ([0xB8, 0x41], .eor (.mem (.dir 0x41))), ([0xB9, 0x41], .adc (.mem (.dir 0x41))),
    ([0xBA, 0x41], .ora (.mem (.dir 0x41))), ([0xBB, 0x41], .add (.mem (.dir 0x41))),
    ([0xBC, 0x41], .jmp (.dir 0x41)), ([0xBD, 0x41], .jsr (.dir 0x41)), ([0xBE, 0x41], .ldx (.mem (.dir 0x41))),
    ([0xBF, 0x41], .stx (.dir 0x41))] = true := by
  decide

theorem test_decode_page1_column_c : allRead [
    ([0xC0, 0x12, 0x8B], .sub (.mem (.ext 0x128B))), ([0xC1, 0x12, 0x8B], .cmp (.mem (.ext 0x128B))),
    ([0xC2, 0x12, 0x8B], .sbc (.mem (.ext 0x128B))), ([0xC3, 0x12, 0x8B], .cpx (.mem (.ext 0x128B))),
    ([0xC4, 0x12, 0x8B], .and (.mem (.ext 0x128B))), ([0xC5, 0x12, 0x8B], .bit (.mem (.ext 0x128B))),
    ([0xC6, 0x12, 0x8B], .lda (.mem (.ext 0x128B))), ([0xC7, 0x12, 0x8B], .sta (.ext 0x128B)),
    ([0xC8, 0x12, 0x8B], .eor (.mem (.ext 0x128B))), ([0xC9, 0x12, 0x8B], .adc (.mem (.ext 0x128B))),
    ([0xCA, 0x12, 0x8B], .ora (.mem (.ext 0x128B))), ([0xCB, 0x12, 0x8B], .add (.mem (.ext 0x128B))),
    ([0xCC, 0x12, 0x8B], .jmp (.ext 0x128B)), ([0xCD, 0x12, 0x8B], .jsr (.ext 0x128B)),
    ([0xCE, 0x12, 0x8B], .ldx (.mem (.ext 0x128B))), ([0xCF, 0x12, 0x8B], .stx (.ext 0x128B))] = true := by
  decide

theorem test_decode_page1_column_d : allRead [
    ([0xD0, 0x21, 0x9A], .sub (.mem (.ix2 0x219A))), ([0xD1, 0x21, 0x9A], .cmp (.mem (.ix2 0x219A))),
    ([0xD2, 0x21, 0x9A], .sbc (.mem (.ix2 0x219A))), ([0xD3, 0x21, 0x9A], .cpx (.mem (.ix2 0x219A))),
    ([0xD4, 0x21, 0x9A], .and (.mem (.ix2 0x219A))), ([0xD5, 0x21, 0x9A], .bit (.mem (.ix2 0x219A))),
    ([0xD6, 0x21, 0x9A], .lda (.mem (.ix2 0x219A))), ([0xD7, 0x21, 0x9A], .sta (.ix2 0x219A)),
    ([0xD8, 0x21, 0x9A], .eor (.mem (.ix2 0x219A))), ([0xD9, 0x21, 0x9A], .adc (.mem (.ix2 0x219A))),
    ([0xDA, 0x21, 0x9A], .ora (.mem (.ix2 0x219A))), ([0xDB, 0x21, 0x9A], .add (.mem (.ix2 0x219A))),
    ([0xDC, 0x21, 0x9A], .jmp (.ix2 0x219A)), ([0xDD, 0x21, 0x9A], .jsr (.ix2 0x219A)),
    ([0xDE, 0x21, 0x9A], .ldx (.mem (.ix2 0x219A))), ([0xDF, 0x21, 0x9A], .stx (.ix2 0x219A))] = true := by
  decide

theorem test_decode_page1_column_e : allRead [
    ([0xE0, 0x9A], .sub (.mem (.ix1 0x9A))), ([0xE1, 0x9A], .cmp (.mem (.ix1 0x9A))),
    ([0xE2, 0x9A], .sbc (.mem (.ix1 0x9A))), ([0xE3, 0x9A], .cpx (.mem (.ix1 0x9A))),
    ([0xE4, 0x9A], .and (.mem (.ix1 0x9A))), ([0xE5, 0x9A], .bit (.mem (.ix1 0x9A))),
    ([0xE6, 0x9A], .lda (.mem (.ix1 0x9A))), ([0xE7, 0x9A], .sta (.ix1 0x9A)),
    ([0xE8, 0x9A], .eor (.mem (.ix1 0x9A))), ([0xE9, 0x9A], .adc (.mem (.ix1 0x9A))),
    ([0xEA, 0x9A], .ora (.mem (.ix1 0x9A))), ([0xEB, 0x9A], .add (.mem (.ix1 0x9A))),
    ([0xEC, 0x9A], .jmp (.ix1 0x9A)), ([0xED, 0x9A], .jsr (.ix1 0x9A)), ([0xEE, 0x9A], .ldx (.mem (.ix1 0x9A))),
    ([0xEF, 0x9A], .stx (.ix1 0x9A))] = true := by
  decide

theorem test_decode_page1_column_f : allRead [
    ([0xF0], .sub (.mem .ix)), ([0xF1], .cmp (.mem .ix)), ([0xF2], .sbc (.mem .ix)), ([0xF3], .cpx (.mem .ix)),
    ([0xF4], .and (.mem .ix)), ([0xF5], .bit (.mem .ix)), ([0xF6], .lda (.mem .ix)), ([0xF7], .sta .ix),
    ([0xF8], .eor (.mem .ix)), ([0xF9], .adc (.mem .ix)), ([0xFA], .ora (.mem .ix)), ([0xFB], .add (.mem .ix)),
    ([0xFC], .jmp .ix), ([0xFD], .jsr .ix), ([0xFE], .ldx (.mem .ix)), ([0xFF], .stx .ix)] = true := by
  decide

theorem test_decode_page2_column_6 : allRead [
    ([0x9E, 0x60, 0x9A], .neg (.sp1 0x9A)), ([0x9E, 0x61, 0x9A, 0xF3], .cbeq (.sp1 0x9A) 0xF3),
    ([0x9E, 0x63, 0x9A], .com (.sp1 0x9A)), ([0x9E, 0x64, 0x9A], .lsr (.sp1 0x9A)),
    ([0x9E, 0x66, 0x9A], .ror (.sp1 0x9A)), ([0x9E, 0x67, 0x9A], .asr (.sp1 0x9A)),
    ([0x9E, 0x68, 0x9A], .lsl (.sp1 0x9A)), ([0x9E, 0x69, 0x9A], .rol (.sp1 0x9A)),
    ([0x9E, 0x6A, 0x9A], .dec (.sp1 0x9A)), ([0x9E, 0x6B, 0x9A, 0xF3], .dbnz (.sp1 0x9A) 0xF3),
    ([0x9E, 0x6C, 0x9A], .inc (.sp1 0x9A)), ([0x9E, 0x6D, 0x9A], .tst (.sp1 0x9A)),
    ([0x9E, 0x6F, 0x9A], .clr (.sp1 0x9A))] = true := by
  decide

theorem test_decode_page2_column_d : allRead [
    ([0x9E, 0xD0, 0x21, 0x9A], .sub (.mem (.sp2 0x219A))),
    ([0x9E, 0xD1, 0x21, 0x9A], .cmp (.mem (.sp2 0x219A))),
    ([0x9E, 0xD2, 0x21, 0x9A], .sbc (.mem (.sp2 0x219A))),
    ([0x9E, 0xD3, 0x21, 0x9A], .cpx (.mem (.sp2 0x219A))),
    ([0x9E, 0xD4, 0x21, 0x9A], .and (.mem (.sp2 0x219A))),
    ([0x9E, 0xD5, 0x21, 0x9A], .bit (.mem (.sp2 0x219A))),
    ([0x9E, 0xD6, 0x21, 0x9A], .lda (.mem (.sp2 0x219A))), ([0x9E, 0xD7, 0x21, 0x9A], .sta (.sp2 0x219A)),
    ([0x9E, 0xD8, 0x21, 0x9A], .eor (.mem (.sp2 0x219A))),
    ([0x9E, 0xD9, 0x21, 0x9A], .adc (.mem (.sp2 0x219A))),
    ([0x9E, 0xDA, 0x21, 0x9A], .ora (.mem (.sp2 0x219A))),
    ([0x9E, 0xDB, 0x21, 0x9A], .add (.mem (.sp2 0x219A))),
    ([0x9E, 0xDE, 0x21, 0x9A], .ldx (.mem (.sp2 0x219A))),
    ([0x9E, 0xDF, 0x21, 0x9A], .stx (.sp2 0x219A))] = true := by
  decide

theorem test_decode_page2_column_e : allRead [
    ([0x9E, 0xE0, 0x9A], .sub (.mem (.sp1 0x9A))), ([0x9E, 0xE1, 0x9A], .cmp (.mem (.sp1 0x9A))),
    ([0x9E, 0xE2, 0x9A], .sbc (.mem (.sp1 0x9A))), ([0x9E, 0xE3, 0x9A], .cpx (.mem (.sp1 0x9A))),
    ([0x9E, 0xE4, 0x9A], .and (.mem (.sp1 0x9A))), ([0x9E, 0xE5, 0x9A], .bit (.mem (.sp1 0x9A))),
    ([0x9E, 0xE6, 0x9A], .lda (.mem (.sp1 0x9A))), ([0x9E, 0xE7, 0x9A], .sta (.sp1 0x9A)),
    ([0x9E, 0xE8, 0x9A], .eor (.mem (.sp1 0x9A))), ([0x9E, 0xE9, 0x9A], .adc (.mem (.sp1 0x9A))),
    ([0x9E, 0xEA, 0x9A], .ora (.mem (.sp1 0x9A))), ([0x9E, 0xEB, 0x9A], .add (.mem (.sp1 0x9A))),
    ([0x9E, 0xEE, 0x9A], .ldx (.mem (.sp1 0x9A))), ([0x9E, 0xEF, 0x9A], .stx (.sp1 0x9A))] = true := by
  decide
set_option maxRecDepth 8000 in
/-- 30_encoding.md R98, R99: 249 opcodes on page 1 and 41 on page 2. -/
theorem test_opcode_counts :
    ((List.range 256).filter fun b => (page1 (BitVec.ofNat 8 b)).isSome).length = 249 ∧
    ((List.range 256).filter fun b => (page2 (BitVec.ofNat 8 b)).isSome).length = 41 := by decide

set_option maxRecDepth 8000 in
/-- The second bytes the statement on page 2 lists are those of R99. -/
theorem test_page2_opcodes :
    ((List.range 256).all fun b => (page2 (BitVec.ofNat 8 b)).isSome == onPage2 (BitVec.ofNat 8 b)) = true := by
  decide

/-- A page 2 row of the opcode table, in either order of its two bytes (log 30). -/
theorem test_table_word_page2 :
    decodeTableWord 16 0x9EE9 = some (.adc (.mem (.sp1 0x00))) ∧
    decodeTableWord 16 0xE99E = some (.adc (.mem (.sp1 0x00))) ∧
    decodeTableWord 8 0xA6 = some (.lda (.imm 0x00)) ∧ decodeTableWord 8 0x32 = none := by decide

/-- The word placed for the host is what the next step runs. -/
theorem test_withFetchWord :
    (State.reset.withFetchWord 8 0x4C).tick.clearDelay.fetch = .ok (.instr .inca 1) := by decide

/-! ## One step: rows of 95_test_vectors.md -/

/-- The default start state of 95_test_vectors.md section 0, with an instruction at PC and bytes of data. -/
def machine (bytes : List Byte) (data : List (Word × Byte)) : State :=
  { State.reset with
    sp := 0x01FF, pc := 0x1000, ccr := .ofByte 0x68
    mem := data.foldl (fun m p => m.write p.1.toNat p.2) (placeBytes [] 0x1000 bytes) }

/-- The step goes on to a state that passes. -/
def goesOn (s : State) (passes : State → Bool) : Bool :=
  match step s with
  | .next t => passes t
  | .fault _ => false
  | .refused _ => false

/-- One step ends in these registers, with these bytes stored and all of memory otherwise as it was. -/
def ends (s : State) (a : Byte) (hx sp pc : Word) (ccr : Byte) (stored : List (Word × Byte)) : Bool :=
  goesOn s fun t =>
    decide (t.a = a) && decide (t.hx = hx) && decide (t.sp = sp) && decide (t.pc = pc) &&
      decide (t.ccr.toByte = ccr) &&
      decide (t.mem = stored.foldl (fun m p => m.write p.1.toNat p.2) s.mem)

theorem test_T66_adc : ends
    { machine [0xA9, 0x01] [] with a := 0x7F, ccr := .ofByte 0x69 }
    0x81 0x0000 0x01FF 0x1002 0xFC [] = true := by decide

theorem test_T65_add : ends
    { machine [0xBB, 0x40] [(0x0040, 0x22)] with a := 0x10, ccr := .ofByte 0x69 }
    0x32 0x0000 0x01FF 0x1002 0x68 [] = true := by decide

theorem test_T36_ais : ends
    { machine [0xA7, 0x7F] [] with sp := 0xFFF0 }
    0x00 0x0000 0x006F 0x1002 0x68 [] = true := by decide

theorem test_T37_aix : ends
    { machine [0xAF, 0xFF] [] with h := 0x01, x := 0x00, ccr := .ofByte 0x69 }
    0x00 0x00FF 0x01FF 0x1002 0x69 [] = true := by decide

theorem test_T112_and : ends
    { machine [0xA4, 0xF0] [] with a := 0x8F, ccr := .ofByte 0xE9 }
    0x80 0x0000 0x01FF 0x1002 0x6D [] = true := by decide

theorem test_T128_asra : ends
    { machine [0x47] [] with a := 0x81 }
    0xC0 0x0000 0x01FF 0x1001 0x6D [] = true := by decide

theorem test_T165_bcc : ends
    { machine [0x24, 0x10] [] with ccr := .ofByte 0x69 }
    0x00 0x0000 0x01FF 0x1002 0x69 [] = true := by decide

theorem test_T143_bclr : ends
    { machine [0x1F, 0x40] [(0x0040, 0xFF)] with ccr := .ofByte 0x6D }
    0x00 0x0000 0x01FF 0x1002 0x6D [(0x0040, 0x7F)] = true := by decide

theorem test_T166_bcs : ends
    { machine [0x25, 0x10] [] with ccr := .ofByte 0x69 }
    0x00 0x0000 0x01FF 0x1012 0x69 [] = true := by decide

theorem test_T168_beq : ends
    { machine [0x27, 0x10] [] with ccr := .ofByte 0x6A }
    0x00 0x0000 0x01FF 0x1012 0x6A [] = true := by decide

theorem test_T194_bge : ends
    { machine [0x90, 0x10] [] with ccr := .ofByte 0xEC }
    0x00 0x0000 0x01FF 0x1012 0xEC [] = true := by decide

theorem test_T199_bgt : ends
    { machine [0x92, 0x10] [] with ccr := .ofByte 0x6A }
    0x00 0x0000 0x01FF 0x1002 0x6A [] = true := by decide

theorem test_T179_bhcc : ends
    { machine [0x28, 0x10] [] with ccr := .ofByte 0x78 }
    0x00 0x0000 0x01FF 0x1002 0x78 [] = true := by decide

theorem test_T180_bhcs : ends
    { machine [0x29, 0x10] [] with ccr := .ofByte 0x78 }
    0x00 0x0000 0x01FF 0x1012 0x78 [] = true := by decide

theorem test_T173_bhi : ends
    { machine [0x22, 0x10] [] with ccr := .ofByte 0x6A }
    0x00 0x0000 0x01FF 0x1002 0x6A [] = true := by decide

theorem test_T191_bih : ends
    { machine [0x2F, 0x10] [] with irqPin := false }
    0x00 0x0000 0x01FF 0x1002 0x68 [] = true := by decide

theorem test_T192_bil : ends
    { machine [0x2E, 0x10] [] with irqPin := false }
    0x00 0x0000 0x01FF 0x1012 0x68 [] = true := by decide

theorem test_T114_bit : ends
    { machine [0xA5, 0x80] [] with a := 0xFF, ccr := .ofByte 0xE8 }
    0xFF 0x0000 0x01FF 0x1002 0x6C [] = true := by decide

theorem test_T203_ble : ends
    { machine [0x93, 0x10] [] with ccr := .ofByte 0xEC }
    0x00 0x0000 0x01FF 0x1002 0xEC [] = true := by decide

theorem test_T175_bls : ends
    { machine [0x23, 0x10] [] with ccr := .ofByte 0x69 }
    0x00 0x0000 0x01FF 0x1012 0x69 [] = true := by decide

theorem test_T197_blt : ends
    { machine [0x91, 0x10] [] with ccr := .ofByte 0xEC }
    0x00 0x0000 0x01FF 0x1002 0xEC [] = true := by decide

theorem test_T186_bmc : ends
    { machine [0x2C, 0x10] [] with ccr := .ofByte 0x60 }
    0x00 0x0000 0x01FF 0x1012 0x60 [] = true := by decide

theorem test_T184_bmi : ends
    { machine [0x2B, 0x10] [] with ccr := .ofByte 0x6C }
    0x00 0x0000 0x01FF 0x1012 0x6C [] = true := by decide

theorem test_T189_bms : ends
    { machine [0x2D, 0x10] [] with ccr := .ofByte 0x60 }
    0x00 0x0000 0x01FF 0x1002 0x60 [] = true := by decide

theorem test_T171_bne : ends
    { machine [0x26, 0x10] [] with ccr := .ofByte 0x6A }
    0x00 0x0000 0x01FF 0x1002 0x6A [] = true := by decide

theorem test_T183_bpl : ends
    { machine [0x2A, 0x10] [] with ccr := .ofByte 0x6C }
    0x00 0x0000 0x01FF 0x1002 0x6C [] = true := by decide

theorem test_T159_bra : ends
    (machine [0x20, 0x80] [])
    0x00 0x0000 0x01FF 0x0F82 0x68 [] = true := by decide

theorem test_T147_brclr : ends
    (machine [0x01, 0x40, 0x10] [(0x0040, 0xFE)])
    0x00 0x0000 0x01FF 0x1013 0x68 [] = true := by decide

theorem test_T163_brn : ends
    (machine [0x21, 0x10] [])
    0x00 0x0000 0x01FF 0x1002 0x68 [] = true := by decide

theorem test_T151_brset : ends
    { machine [0x00, 0x40, 0x10] [(0x0040, 0xFE)] with ccr := .ofByte 0x69 }
    0x00 0x0000 0x01FF 0x1003 0x68 [] = true := by decide

theorem test_T146_bset : ends
    { machine [0x1E, 0xFF] [(0x00FF, 0x01)] with ccr := .ofByte 0x6A }
    0x00 0x0000 0x01FF 0x1002 0x6A [(0x00FF, 0x81)] = true := by decide

theorem test_T230_bsr : ends
    { machine [0xAD, 0xFE] [] with sp := 0x00FF }
    0x00 0x0000 0x00FD 0x1000 0x68 [(0x00FE, 0x10), (0x00FF, 0x02)] = true := by decide

theorem test_T213_cbeq : ends
    { machine [0x61, 0x02, 0x10] [(0x0102, 0x33)] with a := 0x33, h := 0x01, x := 0x00 }
    0x33 0x0101 0x01FF 0x1013 0x68 [] = true := by decide

theorem test_T209_cbeqa : ends
    { machine [0x41, 0x0D, 0xFD] [] with a := 0x0D }
    0x0D 0x0000 0x01FF 0x1000 0x68 [] = true := by decide

theorem test_T210_cbeqx : ends
    { machine [0x51, 0x0D, 0x05] [] with a := 0x00, h := 0x00, x := 0x0D }
    0x00 0x000D 0x01FF 0x1008 0x68 [] = true := by decide

theorem test_T153_clc : ends
    { machine [0x98] [] with ccr := .ofByte 0xE9 }
    0x00 0x0000 0x01FF 0x1001 0xE8 [] = true := by decide

theorem test_T28_clr : ends
    { machine [0x3F, 0x40] [(0x0040, 0x5A)] with ccr := .ofByte 0xED }
    0x00 0x0000 0x01FF 0x1002 0x6B [(0x0040, 0x00)] = true := by decide

theorem test_T29_clra : ends
    { machine [0x4F] [] with a := 0x99, ccr := .ofByte 0x69 }
    0x00 0x0000 0x01FF 0x1001 0x6B [] = true := by decide

theorem test_T31_clrh : ends
    { machine [0x8C] [] with h := 0x12, x := 0x34, ccr := .ofByte 0x6C }
    0x00 0x0034 0x01FF 0x1001 0x6A [] = true := by decide

theorem test_T30_clrx : ends
    { machine [0x5F] [] with h := 0x12, x := 0x99 }
    0x00 0x1200 0x01FF 0x1001 0x6A [] = true := by decide

theorem test_T77_cmp : ends
    { machine [0xA1, 0x10] [] with a := 0x10, ccr := .ofByte 0x69 }
    0x10 0x0000 0x01FF 0x1002 0x6A [] = true := by decide

theorem test_T123_com : ends
    (machine [0x33, 0x40] [(0x0040, 0x0F)])
    0x00 0x0000 0x01FF 0x1002 0x6D [(0x0040, 0xF0)] = true := by decide

theorem test_T120_coma : ends
    { machine [0x43] [] with a := 0x00, ccr := .ofByte 0xE8 }
    0xFF 0x0000 0x01FF 0x1001 0x6D [] = true := by decide

theorem test_T122_comx : ends
    { machine [0x53] [] with h := 0x01, x := 0x55 }
    0x00 0x01AA 0x01FF 0x1001 0x6D [] = true := by decide

theorem test_T83_cphx : ends
    { machine [0x75, 0x40] [(0x0040, 0x00), (0x0041, 0x01)] with h := 0x00, x := 0x00 }
    0x00 0x0000 0x01FF 0x1002 0x6D [] = true := by decide

theorem test_T80_cpx : ends
    { machine [0xB3, 0x40] [(0x0040, 0x80)] with h := 0x00, x := 0x80 }
    0x00 0x0080 0x01FF 0x1002 0x6A [] = true := by decide

theorem test_T222_dbnz : ends
    { machine [0x6B, 0x02, 0x10] [(0x0102, 0x01)] with h := 0x01, x := 0x00 }
    0x00 0x0100 0x01FF 0x1003 0x68 [(0x0102, 0x00)] = true := by decide

theorem test_T218_dbnza : ends
    { machine [0x4B, 0xFE] [] with a := 0x01, ccr := .ofByte 0x6C }
    0x00 0x0000 0x01FF 0x1002 0x6C [] = true := by decide

theorem test_T220_dbnzx : ends
    { machine [0x5B, 0x10] [] with h := 0x12, x := 0x00 }
    0x00 0x12FF 0x01FF 0x1012 0x68 [] = true := by decide

theorem test_T90_dec : ends
    (machine [0x3A, 0x50] [(0x0050, 0x01)])
    0x00 0x0000 0x01FF 0x1002 0x6A [(0x0050, 0x00)] = true := by decide

theorem test_T88_deca : ends
    { machine [0x4A] [] with a := 0x80, ccr := .ofByte 0x69 }
    0x7F 0x0000 0x01FF 0x1001 0xE9 [] = true := by decide

theorem test_T89_decx : ends
    { machine [0x5A] [] with h := 0x01, x := 0x00 }
    0x00 0x01FF 0x01FF 0x1001 0x6C [] = true := by decide

theorem test_T102_div : ends
    { machine [0x52] [] with a := 0x05, h := 0x00, x := 0x0A, ccr := .ofByte 0x69 }
    0x00 0x050A 0x01FF 0x1001 0x6A [] = true := by decide

theorem test_T118_eor : ends
    { machine [0xA8, 0xFF] [] with a := 0xFF, ccr := .ofByte 0x69 }
    0x00 0x0000 0x01FF 0x1002 0x6B [] = true := by decide

theorem test_T87_inc : ends
    (machine [0x3C, 0x50] [(0x0050, 0xFE)])
    0x00 0x0000 0x01FF 0x1002 0x6C [(0x0050, 0xFF)] = true := by decide

theorem test_T84_inca : ends
    { machine [0x4C] [] with a := 0x7F, ccr := .ofByte 0x69 }
    0x80 0x0000 0x01FF 0x1001 0xED [] = true := by decide

theorem test_T86_incx : ends
    { machine [0x5C] [] with h := 0x01, x := 0xFF, ccr := .ofByte 0x69 }
    0x00 0x0100 0x01FF 0x1001 0x6B [] = true := by decide

theorem test_T228_jmp : ends
    { machine [0xDC, 0xFF, 0xFF] [] with h := 0x20, x := 0x10 }
    0x00 0x2010 0x01FF 0x200F 0x68 [] = true := by decide

theorem test_T236_jsr : ends
    { machine [0xDD, 0x01, 0x00] [] with h := 0x20, x := 0x10 }
    0x00 0x2010 0x01FD 0x2110 0x68 [(0x01FE, 0x10), (0x01FF, 0x03)] = true := by decide

theorem test_T7_lda : ends
    { machine [0xD6, 0xFF, 0xFF] [(0x0001, 0x33)] with a := 0x05, h := 0x00, x := 0x02 }
    0x33 0x0002 0x01FF 0x1003 0x68 [] = true := by decide

theorem test_T14_ldhx : ends
    (machine [0x55, 0xFF] [(0x00FF, 0x80), (0x0100, 0x01)])
    0x00 0x8001 0x01FF 0x1002 0x6C [] = true := by decide

theorem test_T11_ldx : ends
    { machine [0xFE] [(0x0110, 0xFF)] with h := 0x01, x := 0x10 }
    0x00 0x01FF 0x01FF 0x1001 0x6C [] = true := by decide

theorem test_T127_lsl : ends
    (machine [0x38, 0x20] [(0x0020, 0x81)])
    0x00 0x0000 0x01FF 0x1002 0xE9 [(0x0020, 0x02)] = true := by decide

theorem test_T124_lsla : ends
    { machine [0x48] [] with a := 0x40 }
    0x80 0x0000 0x01FF 0x1001 0xEC [] = true := by decide

theorem test_T132_lsra : ends
    { machine [0x44] [] with a := 0xFE, ccr := .ofByte 0x6C }
    0x7F 0x0000 0x01FF 0x1001 0x68 [] = true := by decide

theorem test_T24_mov : ends
    { machine [0x4E, 0x10, 0x20] [(0x0010, 0xAB), (0x0020, 0x00)] with ccr := .ofByte 0xE8 }
    0x00 0x0000 0x01FF 0x1003 0x6C [(0x0010, 0xAB), (0x0020, 0xAB)] = true := by decide

theorem test_T98_mul : ends
    { machine [0x42] [] with a := 0xFF, h := 0x00, x := 0xFF, ccr := .ofByte 0x7D }
    0x01 0x00FE 0x01FF 0x1001 0x6C [] = true := by decide

theorem test_T94_neg : ends
    { machine [0x70] [(0x0060, 0x7F)] with h := 0x00, x := 0x60 }
    0x00 0x0060 0x01FF 0x1001 0x6D [(0x0060, 0x81)] = true := by decide

theorem test_T92_nega : ends
    { machine [0x40] [] with a := 0x00, ccr := .ofByte 0x69 }
    0x00 0x0000 0x01FF 0x1001 0x6A [] = true := by decide

theorem test_T240_nop : ends
    (machine [0x9D] [])
    0x00 0x0000 0x01FF 0x1001 0x68 [] = true := by decide

theorem test_T141_nsa : ends
    { machine [0x62] [] with a := 0xA5, ccr := .ofByte 0x6B }
    0x5A 0x0000 0x01FF 0x1001 0x6B [] = true := by decide

theorem test_T116_ora : ends
    { machine [0xAA, 0x0F] [] with a := 0x80, ccr := .ofByte 0xE8 }
    0x8F 0x0000 0x01FF 0x1002 0x6C [] = true := by decide

theorem test_T43_psha : ends
    { machine [0x87] [] with a := 0x5A, sp := 0x0000 }
    0x5A 0x0000 0xFFFF 0x1001 0x68 [(0x0000, 0x5A)] = true := by decide

theorem test_T41_pshh : ends
    { machine [0x8B] [] with h := 0x12, x := 0x34 }
    0x00 0x1234 0x01FE 0x1001 0x68 [(0x01FF, 0x12)] = true := by decide

theorem test_T42_pshx : ends
    { machine [0x89] [] with h := 0x12, x := 0x34 }
    0x00 0x1234 0x01FE 0x1001 0x68 [(0x01FF, 0x34)] = true := by decide

theorem test_T44_pula : ends
    { machine [0x86] [(0x01FE, 0x99)] with sp := 0x01FD, ccr := .ofByte 0x6A }
    0x99 0x0000 0x01FE 0x1001 0x6A [] = true := by decide

theorem test_T45_pulh : ends
    { machine [0x8A] [(0x01FE, 0x02)] with h := 0x00, x := 0x10, sp := 0x01FD }
    0x00 0x0210 0x01FE 0x1001 0x68 [] = true := by decide

theorem test_T46_pulx : ends
    { machine [0x88] [(0x0000, 0x77)] with h := 0x01, x := 0x00, sp := 0xFFFF }
    0x00 0x0177 0x0000 0x1001 0x68 [] = true := by decide

theorem test_T135_rola : ends
    { machine [0x49] [] with a := 0x40, ccr := .ofByte 0x69 }
    0x81 0x0000 0x01FF 0x1001 0xEC [] = true := by decide

theorem test_T140_ror : ends
    { machine [0x9E, 0x66, 0x01] [(0x0200, 0x02)] with ccr := .ofByte 0x69 }
    0x00 0x0000 0x01FF 0x1003 0xEC [(0x0200, 0x81)] = true := by decide

theorem test_T138_rora : ends
    { machine [0x46] [] with a := 0x00, ccr := .ofByte 0x69 }
    0x80 0x0000 0x01FF 0x1001 0xEC [] = true := by decide

theorem test_T47_rsp : ends
    { machine [0x9C] [] with sp := 0x1234 }
    0x00 0x0000 0x00FF 0x1001 0x68 [] = true := by decide

theorem test_T243_rti : ends
    { machine [0x80] [(0x01FB, 0x95), (0x01FC, 0xAA), (0x01FD, 0x55), (0x01FE, 0x12), (0x01FF, 0x34)]
      with h := 0x77, x := 0x00, sp := 0x01FA }
    0xAA 0x7755 0x01FF 0x1234 0xF5 [] = true := by decide

theorem test_T237_rts : ends
    { machine [0x81] [(0x01FE, 0x10), (0x01FF, 0x03)] with sp := 0x01FD }
    0x00 0x0000 0x01FF 0x1003 0x68 [] = true := by decide

theorem test_T73_sbc : ends
    { machine [0xA2, 0x00] [] with a := 0x00, ccr := .ofByte 0x69 }
    0xFF 0x0000 0x01FF 0x1002 0x6D [] = true := by decide

theorem test_T154_sec : ends
    (machine [0x99] [])
    0x00 0x0000 0x01FF 0x1001 0x69 [] = true := by decide

theorem test_T156_sei : ends
    { machine [0x9B] [] with ccr := .ofByte 0x60 }
    0x00 0x0000 0x01FF 0x1001 0x68 [] = true := by decide

theorem test_T17_sta : ends
    { machine [0xF7] [] with a := 0x00, h := 0x00, x := 0x50, ccr := .ofByte 0xEC }
    0x00 0x0050 0x01FF 0x1001 0x6A [(0x0050, 0x00)] = true := by decide

theorem test_T23_sthx : ends
    { machine [0x35, 0x40] [] with h := 0x00, x := 0x00, ccr := .ofByte 0x6C }
    0x00 0x0000 0x01FF 0x1002 0x6A [(0x0040, 0x00), (0x0041, 0x00)] = true := by decide

theorem test_T19_stx : ends
    { machine [0xBF, 0x50] [] with h := 0x00, x := 0x80 }
    0x00 0x0080 0x01FF 0x1002 0x6C [(0x0050, 0x80)] = true := by decide

theorem test_T72_sub : ends
    { machine [0xA0, 0x01] [] with a := 0x00, ccr := .ofByte 0x78 }
    0xFF 0x0000 0x01FF 0x1002 0x7D [] = true := by decide

theorem test_T242_swi : ends
    { machine [0x83] [(0xFFFC, 0x20), (0xFFFD, 0x00)]
      with a := 0xAA, h := 0x00, x := 0x55, ccr := .ofByte 0xE0 }
    0xAA 0x0055 0x01FA 0x2000 0xE8 [(0x01FB, 0xE0), (0x01FC, 0xAA), (0x01FD, 0x55), (0x01FE, 0x10), (0x01FF, 0x01)] =
      true := by decide

theorem test_T48_tap : ends
    { machine [0x84] [] with a := 0x00 }
    0x00 0x0000 0x01FF 0x1001 0x60 [] = true := by decide

theorem test_T53_tax : ends
    { machine [0x97] [] with a := 0x80, h := 0x05, x := 0x01 }
    0x80 0x0580 0x01FF 0x1001 0x68 [] = true := by decide

theorem test_T51_tpa : ends
    { machine [0x85] [] with ccr := .ofByte 0xE1 }
    0xE1 0x0000 0x01FF 0x1001 0xE1 [] = true := by decide

theorem test_T96_tst : ends
    { machine [0x3D, 0x10] [(0x0010, 0x00)] with ccr := .ofByte 0x69 }
    0x00 0x0000 0x01FF 0x1002 0x6B [] = true := by decide

theorem test_T95_tsta : ends
    { machine [0x4D] [] with a := 0x80, ccr := .ofByte 0xE9 }
    0x80 0x0000 0x01FF 0x1001 0x6D [] = true := by decide

theorem test_T97_tstx : ends
    { machine [0x5D] [] with h := 0x00, x := 0x01, ccr := .ofByte 0x6E }
    0x00 0x0001 0x01FF 0x1001 0x68 [] = true := by decide

theorem test_T55_tsx : ends
    { machine [0x95] [] with sp := 0x01FD }
    0x00 0x01FE 0x01FD 0x1001 0x68 [] = true := by decide

theorem test_T54_txa : ends
    { machine [0x9F] [] with a := 0x80, h := 0x05, x := 0x00 }
    0x00 0x0500 0x01FF 0x1001 0x68 [] = true := by decide

theorem test_T57_txs : ends
    { machine [0x94] [] with h := 0x02, x := 0x00 }
    0x00 0x0200 0x01FF 0x1001 0x68 [] = true := by decide

/-! The instructions and effects whose rows do not have that form, and those the vectors do not name: the
expected values are those of the A form of the same rule. -/

theorem test_T155_cli : goesOn (machine [0x9A] []) (fun t =>
    t.cliDelay && decide (t.ccr.toByte = 0x60) && decide (t.pc = 0x1001)) = true := by decide

theorem test_T245_stop : goesOn (machine [0x8E] []) (fun t =>
    decide (t.runState = .stopped) && decide (t.ccr.toByte = 0x60) && decide (t.pc = 0x1001)) = true := by decide

theorem test_T246_wait : goesOn (machine [0x8F] []) (fun t =>
    decide (t.runState = .waiting) && decide (t.ccr.toByte = 0x60) && decide (t.pc = 0x1001)) = true := by decide

/-- 42_arithmetic.md R175: $9A is corrected by $66; V is not looked at. -/
theorem test_daa : goesOn { machine [0x72] [] with a := 0x9A } (fun t =>
    decide (t.a = 0x00) && t.ccr.c && t.ccr.z && !t.ccr.n) = true := by decide

/-- 42_arithmetic.md R177: on overflow C is 1 and X is kept; A, H and Z are not looked at. -/
theorem test_div_overflow : goesOn { machine [0x52] [] with a := 0x00, h := 0x0A, x := 0x0A } (fun t =>
    t.ccr.c && decide (t.x = 0x0A) && decide (t.pc = 0x1001)) = true := by decide

theorem test_asr_direct : ends (machine [0x37, 0x40] [(0x0040, 0x81)])
    0x00 0x0000 0x01FF 0x1002 0x6D [(0x0040, 0xC0)] = true := by decide

theorem test_asrx : ends { machine [0x57] [] with h := 0x77, x := 0x81 }
    0x00 0x77C0 0x01FF 0x1001 0x6D [] = true := by decide

theorem test_lslx : ends { machine [0x58] [] with h := 0x77, x := 0x40 }
    0x00 0x7780 0x01FF 0x1001 0xEC [] = true := by decide

theorem test_lsr_direct : ends (machine [0x34, 0x40] [(0x0040, 0x81)])
    0x00 0x0000 0x01FF 0x1002 0xE9 [(0x0040, 0x40)] = true := by decide

theorem test_lsrx : ends { machine [0x54] [] with h := 0x77, x := 0x01 }
    0x00 0x7700 0x01FF 0x1001 0xEB [] = true := by decide

theorem test_negx : ends { machine [0x50] [] with h := 0x77, x := 0x7F }
    0x00 0x7781 0x01FF 0x1001 0x6D [] = true := by decide

theorem test_rol_direct : ends { machine [0x39, 0x40] [(0x0040, 0x40)] with ccr := .ofByte 0x69 }
    0x00 0x0000 0x01FF 0x1002 0xEC [(0x0040, 0x81)] = true := by decide

theorem test_rolx : ends { machine [0x59] [] with h := 0x77, x := 0x80 }
    0x00 0x7700 0x01FF 0x1001 0xEB [] = true := by decide

theorem test_rorx : ends { machine [0x56] [] with h := 0x77, x := 0x01, ccr := .ofByte 0x69 }
    0x00 0x7780 0x01FF 0x1001 0x6D [] = true := by decide

/-- T247: the pin low with I clear enters the interrupt instead of the NOP. -/
theorem test_T247_interrupt : ends
    { machine [0x9D] [(0xFFFA, 0x30), (0xFFFB, 0x00)] with
      a := 0xAA, h := 0x77, x := 0x55, irqPin := false, ccr := .ofByte 0x61 }
    0xAA 0x7755 0x01FA 0x3000 0x69
    [(0x01FB, 0x61), (0x01FC, 0xAA), (0x01FD, 0x55), (0x01FE, 0x10), (0x01FF, 0x00)] = true := by decide

/-- T253: the boundary after WAIT, the pin low, ends WAITING. -/
theorem test_T253_wait_ends : goesOn
    { machine [] [(0xFFFA, 0x30), (0xFFFB, 0x00)] with
      irqPin := false, runState := .waiting, ccr := .ofByte 0x60 } (fun t =>
    decide (t.runState = .running) && decide (t.pc = 0x3000) && t.ccr.i) = true := by decide

/-- T256 to T258. -/
theorem test_T256_illegal_opcode : (machine [0x32] []).fetch = .ok (.illegal 0x32 none) := by decide
theorem test_T257_illegal_opcode : (machine [0x9E, 0x00] []).fetch = .ok (.illegal 0x9E (some 0x00)) := by decide
theorem test_T258_illegal_opcode : (machine [0x9E, 0x9E] []).fetch = .ok (.illegal 0x9E (some 0x9E)) := by decide

/-- 70_reset_and_hazards.md R453: counts of one form each of NOP, SWI, DIV. -/
theorem test_cycles : cycles .nop = 1 ∧ cycles .swi = 9 ∧ cycles .div = 7 := by decide

/-- 30_encoding.md R107's examples, as 95_test_vectors.md prints their kind; R108: `B6 50` for `LDA $0050`. -/
theorem test_source_text :
    sourceText 0x1000 (.brclr 0 0x40 0x10) = "BRCLR 0,$40,$1013" ∧
    sourceText 0x1000 (.mov (.ixIncD 0x20)) = "MOV X+,$20" ∧
    sourceText 0x1000 (.lda (.mem (.ix2 0x1234))) = "LDA $1234,X" ∧
    Machine.MemRef.shorten (.ext 0x0050) = .dir 0x50 := by decide

/-- A MEMMAP with each kind of region (00_scope.md R6); what it does not list is RAM. -/
def mapped : Config.Params :=
  { Config.Params.default with
    memmap :=
      [{ first := 0x0010, last := 0x001F, kind := .device 1 },
       { first := 0x6000, last := 0x60FF, kind := .unimplemented },
       { first := 0xE000, last := 0xEFFF, kind := .romFaulting },
       { first := 0xF000, last := 0xFFFF, kind := .rom }] }

/-- 20_memory.md R61, R63: BSET on an I/O register reads its eight bits and writes eight bits back, both of
which the device sees; memory plays no part. -/
theorem test_bset_on_io_register :
    ∃ t, step { machine [0x10, 0x1F] [] with params := mapped } = .next t ∧
      t.io = Config.deviceAfterWrite 1 (Config.deviceAfterRead 1 0 1 0x001F) 1 0x001F
        (Config.deviceRead 1 0 1 0x001F ||| 0x01) ∧
      t.mem = (machine [0x10, 0x1F] []).mem ∧ t.pc = 0x1002 :=
  ⟨_, rfl, rfl, rfl, rfl⟩

/-- 20_memory.md R65, 00_scope.md R6: a write to ROM is ignored, or faults, as MEMMAP says. -/
theorem test_write_to_rom :
    goesOn { machine [0xC7, 0xF0, 0x00] [] with params := mapped, a := 0x55 } (fun t =>
      decide (t.mem = (machine [0xC7, 0xF0, 0x00] []).mem) && decide (t.pc = 0x1003)) = true ∧
    step { machine [0xC7, 0xE0, 0x00] [] with params := mapped, a := 0x55 } = .fault (.romWrite 0xE000) :=
  ⟨by decide, rfl⟩


/-! ## Witnesses: for each obligation with hypotheses, values that meet them all -/

/-- A state with bytes at the operands the witnesses use. -/
def sample : State :=
  { machine [0x9D] [(0x0000, 0x77), (0x0040, 0x99), (0x00FF, 0x12), (0x0100, 0x34), (0x0200, 0x55)] with
    a := 0x99, h := 0x00, x := 0x40, ccr := .ofByte 0x61 }

/-- `sample` with every kind of region. -/
def sampleMapped : State := { sample with params := mapped }

theorem witness_DecodeOfEncode : (Instr.neg (.sp1 0x05)).wf = true ∧
    (Instr.jmp (.ix2 0xFFFF)).wf = true := by decide

theorem witness_DecodedIsEncoded :
    decode [0x9E, 0xD6, 0x01, 0x00, 0x9D] = .ok (.lda (.mem (.sp2 0x0100)), [0x9D]) := by decide

theorem witness_UnassignedOpcodesRejected :
    (0x32 : Byte) ∈ ([0x32, 0x3E, 0x82, 0x8D, 0x96, 0xAC] : List Byte) ∧
    onPage2 0x9E = false ∧ onPage2 0x62 = false ∧ onPage2 0xEC = false ∧
    decode [0xAC] = .error (.illegalOpcode 0xAC none) ∧
    decode [0x9E, 0x6E] = .error (.illegalOpcode 0x9E (some 0x6E)) := by decide

theorem witness_CanonicalMemoryIsUnique :
    Memory.wf [(0, 0x01), (65535, 0x02)] = true ∧ Memory.wf ([] : Memory) = true := by decide

theorem witness_StoreThenLoad_ram :
    sample.mem.wf = true ∧ sample.writable 0xFFFF = true ∧ sample.kindAt 0xFFFF = .ram := by decide

theorem witness_StoreThenLoad_rom :
    sampleMapped.mem.wf = true ∧ sampleMapped.writable 0xF000 = true ∧ sampleMapped.kindAt 0xF000 = .rom ∧
    sampleMapped.kindAt 0xEFFF = .romFaulting ∧ sampleMapped.kindAt 0xE000 = .romFaulting := by
  decide

theorem witness_StoreThenLoad_device :
    sampleMapped.mem.wf = true ∧ sampleMapped.writable 0x0010 = true ∧ sampleMapped.kindAt 0x0010 = .device 1 ∧
    sampleMapped.kindAt 0x001F = .device 1 ∧ sampleMapped.kindAt 0x0020 = .ram := by
  decide

theorem witness_WordsAreBigEndian :
    sample.mem.wf = true ∧ sample.kindAt 0xFFFF = .ram ∧ sample.kindAt (0xFFFF + 1) = .ram := by decide

theorem witness_EffectiveAddresses :
    sampleMapped.kindAt (MemRef.ix.ea sampleMapped) = .ram ∧
    sampleMapped.kindAt ((MemRef.ext 0xFFFF).ea sampleMapped) = .rom ∧
    sampleMapped.kindAt ((MemRef.ext 0xEFFF).ea sampleMapped) = .romFaulting ∧
    sampleMapped.kindAt ((MemRef.dir 0x10).ea sampleMapped) = .device 1 ∧
    sample.Reads [(BitVec.ofNat 16 (0xFF : Byte).toNat, 0x12),
      (BitVec.ofNat 16 ((0xFF : Byte).toNat + 1), 0x34)] :=
  ⟨by decide, by decide, by decide, by decide, by decide, by decide, trivial⟩

/-- Executing at a boundary, decided. -/
def executes (s : State) : Bool :=
  !s.resetLine && decide (s.recognised = none) && decide (s.runState = .running)

theorem executes_iff (s : State) : executes s = true ↔ s.Executes := by
  simp [executes, State.Executes, and_assoc]

/-- The bytes lie at PC. -/
def liesAtPc (s : State) : Nat → List Byte → Bool
  | _, [] => true
  | k, b :: rest => decide ((s.afterFetch k).fetchByte (s.pc + BitVec.ofNat 16 k) = .ok b) && liesAtPc s (k + 1) rest

theorem liesAtPc_sound (s : State) : ∀ (bytes : List Byte) (j : Nat), liesAtPc s j bytes = true →
    ∀ k b, bytes[k]? = some b → (s.afterFetch (j + k)).fetchByte (s.pc + BitVec.ofNat 16 (j + k)) = .ok b
  | [], _, _, _, _, h => by simp at h
  | b :: rest, j, hl, k, c, h => by
    simp only [liesAtPc, Bool.and_eq_true, decide_eq_true_eq] at hl
    cases k with
    | zero => simp at h; subst h; exact hl.1
    | succ k =>
      have := liesAtPc_sound s rest (j + 1) hl.2 k c (by simpa using h)
      rwa [show j + 1 + k = j + (k + 1) by omega] at this

/-- Bytes at the top of the address space, the second byte wrapping to $0000. -/
def wrapping : State :=
  { State.reset with pc := 0xFFFF, mem := placeBytes [] 0xFFFF [0xA6, 0x80] }

theorem witness_StepRunsDecodedInstruction :
    wrapping.Executes ∧ decode [0xA6, 0x80] = .ok (.lda (.imm 0x80), []) ∧
    ∀ k b, ([0xA6, 0x80] : List Byte)[k]? = some b →
      (wrapping.tick.afterFetch k).fetchByte (wrapping.pc + BitVec.ofNat 16 k) = .ok b := by
  refine ⟨(executes_iff _).1 (by decide), by decide, fun k b h => ?_⟩
  have := liesAtPc_sound wrapping.tick [0xA6, 0x80] 0 (by decide) k b h
  rwa [Nat.zero_add] at this

/-- `32` at PC. -/
def illegal : State := machine [0x32] []

theorem witness_IllegalOpcodeStops_fault :
    illegal.Executes ∧ illegal.tick.clearDelay.fetch = .ok (.illegal 0x32 none) ∧
    illegal.params.illegalOpcode = .fault :=
  ⟨(executes_iff _).1 (by decide), by decide, by decide⟩

/-- The same with ILLEGAL_OPCODE = reset, and an opcode of page 2. -/
def illegalResets : State :=
  { machine [0x9E, 0x9E] [] with params := { Config.Params.default with illegalOpcode := .reset } }

theorem witness_IllegalOpcodeStops_reset :
    illegalResets.Executes ∧ illegalResets.tick.clearDelay.fetch = .ok (.illegal 0x9E (some 0x9E)) ∧
    illegalResets.params.illegalOpcode = .reset :=
  ⟨(executes_iff _).1 (by decide), by decide, by decide⟩

/-- The pin low and I clear, the stack wrapping. -/
def interrupted : State :=
  { machine [0x9D] [(0xFFFA, 0x30)] with irqPin := false, ccr := .ofByte 0x61, sp := 0x0002 }

theorem witness_InterruptEntry :
    interrupted.resetLine = false ∧ interrupted.recognised = some 0xFFFA ∧ interrupted.mem.wf = true ∧
    (interrupted.writable interrupted.sp = true ∧ interrupted.writable (interrupted.sp - 1) = true ∧
      interrupted.writable (interrupted.sp - 2) = true ∧ interrupted.writable (interrupted.sp - 3) = true ∧
      interrupted.writable (interrupted.sp - 4) = true) ∧
    interrupted.readable 0xFFFA = true ∧ interrupted.readable (0xFFFA + 1) = true := by decide

theorem witness_InterruptEntry_frame : frameWritable interrupted := by
  unfold frameWritable; decide

/-- Two sources, the second requesting. -/
def requesting : State :=
  { machine [0x9D] [] with
    ccr := .ofByte 0x60
    sources :=
      [{ name := "a", vector := 0xFFF8, pending := false }, { name := "b", vector := 0xFFF6, pending := true }] }

theorem witness_InterruptRecognition :
    interrupted.recognised = some 0xFFFA ∧ requesting.recognised = some 0xFFF6 ∧
    { requesting with irqPin := false }.recognised = some 0xFFFA ∧
    { requesting with runState := .stopped }.recognised = none ∧
    { requesting with cliDelay := true }.recognised = none := by decide

/-- CLI with the pin low; what follows it. -/
def cliThen (next : List Byte) : State :=
  { machine (0x9A :: next) [] with irqPin := false }

theorem witness_CliDelaysOneInstruction_ends :
    (cliThen [0x9D]).Executes ∧ (cliThen [0x9D]).tick.clearDelay.fetch = .ok (.instr .cli 1) ∧
    ∃ t u, step (cliThen [0x9D]) = .next t ∧ step t = .next u ∧
      u.cliDelay = false ∧ u.ccr.i = false ∧ u.irqPin = false ∧ u.resetLine = false :=
  ⟨(executes_iff _).1 (by decide), by decide, _, _, rfl, rfl, by decide, by decide, by decide, by decide⟩

theorem witness_CliDelaysOneInstruction_again :
    ∃ t u, step (cliThen [0x9A]) = .next t ∧ step t = .next u ∧ u.cliDelay = true :=
  ⟨_, _, rfl, rfl, by decide⟩

theorem witness_LowPowerIdlesForEver :
    { sample with runState := .waiting }.runState ≠ .running ∧ sample.resetLine = false ∧
    { sample with runState := .waiting }.recognised = none ∧ sample.cliDelay = false ∧
    { interrupted with irqPin := true, runState := .stopped }.recognised = none := by decide

theorem witness_ResetEntry :
    { sample with resetLine := true }.resetLine = true ∧
    sample.readable sample.params.vecReset = true ∧ sample.readable (sample.params.vecReset + 1) = true := by
  decide

theorem witness_StepKeepsInv : sample.Inv ∧ ∃ t, step sample = .next t :=
  ⟨by unfold State.Inv; decide, _, rfl⟩

theorem witness_StepKeepsPlatform : ∃ t, step requesting = .next t := ⟨_, rfl⟩

theorem witness_RunStateChanges_wait :
    ∃ t, step (machine [0x8F] []) = .next t ∧ (machine [0x8F] []).runState = .running ∧ t.runState = .waiting :=
  ⟨_, rfl, by decide, by decide⟩

theorem witness_RunStateChanges_stop :
    ∃ t, step (machine [0x8E] []) = .next t ∧ (machine [0x8E] []).runState = .running ∧ t.runState = .stopped :=
  ⟨_, rfl, by decide, by decide⟩

theorem witness_RunStateChanges_ends :
    ∃ t, step { interrupted with runState := .stopped } = .next t ∧ t.runState ≠ .stopped :=
  ⟨_, rfl, by decide⟩

theorem witness_StepStopsOnlyFor_illegal :
    ∃ f, step illegal = .fault f := ⟨_, rfl⟩

theorem witness_StepStopsOnlyFor_unimplemented :
    ∃ f, step { sampleMapped with pc := 0x60FF } = .fault f := ⟨_, rfl⟩

theorem witness_StepStopsOnlyFor_rom :
    ∃ f, step { machine [0xC7, 0xE0, 0x00] [] with params := mapped } = .fault f := ⟨_, rfl⟩

/-- A MEMMAP of nothing but I/O registers. -/
def allDevice : State :=
  { sample with
    params := { Config.Params.default with memmap := [{ first := 0x0000, last := 0xFFFF, kind := .device 1 }] } }

theorem allDevice_kindAt (a : Word) : allDevice.kindAt a = .device 1 := by
  have h : (decide ((0x0000 : Word) ≤ a) && decide (a ≤ 0xFFFF)) = true := by
    simp only [Bool.and_eq_true, decide_eq_true_eq]
    constructor <;> bv_omega
  simp only [allDevice, State.kindAt, List.find?, h]

theorem witness_ExecCompletesOnRam :
    State.reset.AllRam ∧ allDevice.Accessible ∧
    ∀ a, allDevice.kindAt a = .ram ∨ allDevice.kindAt a = .rom ∨ ∃ id, allDevice.kindAt a = .device id :=
  ⟨fun _ => rfl, fun a => by simp [State.readable, State.writable, allDevice_kindAt],
   fun a => .inr (.inr ⟨1, allDevice_kindAt a⟩)⟩

theorem witness_FlagFreeInstructions :
    changesNoFlag (.sta .ix) = false ∧ changesNoFlag (.dbnzx 0xFE) = true ∧
    ∃ t, exec (.dbnzx 0xFE) sample = .next t := ⟨by decide, by decide, _, rfl⟩

theorem witness_FlagWriters :
    (∃ t, exec (.sub (.imm 0x01)) sample = .next t) ∧ writesHalfCarry (.sub (.imm 0x01)) = false ∧
    writesMask (.sub (.imm 0x01)) = false ∧ (∃ t, exec .sei sample = .next t) ∧
    (∃ t, exec .swi sample = .next t) ∧ (∃ t, exec .cli sample = .next t) ∧
    (∃ t, exec .stop sample = .next t) ∧ (∃ t, exec .wait sample = .next t) :=
  ⟨⟨_, rfl⟩, by decide, by decide, ⟨_, rfl⟩, ⟨_, rfl⟩, ⟨_, rfl⟩, ⟨_, rfl⟩, ⟨_, rfl⟩⟩

theorem witness_RegisterWriters :
    (∃ t, exec .tax sample = .next t) ∧ writesSp .tax = false ∧ writesH .tax = false ∧
    Instr.tax ≠ .cli ∧ Instr.tax ≠ .wait ∧ Instr.tax ≠ .stop :=
  ⟨⟨_, rfl⟩, by decide, by decide, by decide, by decide, by decide⟩

theorem witness_NonStoringInstructions :
    stores (.tst .ix) = false ∧ ∃ t, exec (.tst .ix) sample = .next t := ⟨by decide, _, rfl⟩

theorem witness_LoadResult :
    (Src.mem .ix).value sample = .ok 0x99 ∧ (WideSrc.dir 0xFF).value sample = .ok 0x1234 ∧
    (Src.mem (.ext 0xFFFF)).value sampleMapped = .ok 0x00 := by decide

theorem witness_StoreResult :
    sample.mem.wf = true ∧ sample.writable ((MemRef.sp1 0xFF).ea sample) = true ∧
    sample.writable (zext16 0xFF) = true ∧ sample.writable (zext16 0xFF + 1) = true := by decide

theorem witness_ClearResult :
    sampleMapped.mem.wf = true ∧ sampleMapped.writable ((MemRef.ext 0xF000).ea sampleMapped) = true := by decide

theorem witness_MovResult :
    sample.mem.wf = true ∧ (MovForm.dd 0x40 0xFF).source sample = .ok 0x99 ∧
    sample.writable ((MovForm.dd 0x40 0xFF).target sample) = true ∧
    (MovForm.ixIncD 0x00).source sample = .ok 0x99 ∧
    sample.writable ((MovForm.ixIncD 0x00).target sample) = true ∧
    (MovForm.dixInc 0xFF).source sample = .ok 0x12 ∧
    sample.writable ((MovForm.dixInc 0xFF).target sample) = true ∧
    (MovForm.imd 0x80 0x00).source sample = .ok 0x80 ∧
    sample.writable ((MovForm.imd 0x80 0x00).target sample) = true := by decide

theorem witness_TapResult : ∃ t, exec .tap sample = .next t := ⟨_, rfl⟩

theorem witness_RspResult :
    sample.params.rspClearsSph = true ∧
    { sample with params := { mapped with rspClearsSph := false } }.params.rspClearsSph = false := by decide

theorem witness_StackResult :
    sample.mem.wf = true ∧ sample.writable sample.sp = true ∧ sample.load (sample.sp + 1) = .ok 0x55 ∧
    { sample with sp := 0xFFFF }.load (0xFFFF + 1) = .ok 0x77 := by decide

theorem witness_AddResult : (Src.mem (.sp1 0x01)).value sample = .ok 0x55 := by decide

theorem witness_SubtractResult :
    (Src.imm 0x80).value sample = .ok 0x80 ∧ (WideSrc.imm16 0x8000).value sample = .ok 0x8000 := by decide

theorem witness_ModifyResult :
    sample.mem.wf = true ∧ sample.load ((MemRef.ix1 0xC0).ea sample) = .ok 0x34 ∧
    sample.writable ((MemRef.ix1 0xC0).ea sample) = true := by decide

theorem witness_ShiftResult :
    sample.mem.wf = true ∧ sample.load ((MemRef.dir 0x40).ea sample) = .ok 0x99 ∧
    sample.writable ((MemRef.dir 0x40).ea sample) = true := by decide

theorem witness_DivResult :
    sample.h.toNat < sample.x.toNat ∧ { sample with h := 0x40 }.x.toNat ≤ { sample with h := 0x40 }.h.toNat ∧
    { sample with x := 0x00 }.x.toNat ≤ { sample with x := 0x00 }.h.toNat := by decide

theorem witness_DaaResult :
    daaEntry false 9 false 10 = some (0x66, true) ∧ daaEntry true 3 true 3 = some (0x66, true) ∧
    daaEntry true 0 false 0 = some (0x60, true) ∧ daaEntry false 9 true 3 = some (0x06, false) ∧
    daaEntry sample.ccr.c (sample.a.toNat / 16) sample.ccr.h (sample.a.toNat % 16) = none := by decide

theorem witness_DaaCorrectsDecimalSums :
    isBcd sample.a ∧ isBcd 0x99 ∧ (Src.mem .ix).value sample = .ok 0x99 := by
  unfold isBcd; decide

theorem witness_LogicAndTestResult :
    (Src.mem .ix).value sample = .ok 0x99 ∧ sample.load ((MemRef.sp1 0x01).ea sample) = .ok 0x55 := by decide

theorem witness_BitWriteResult :
    sample.mem.wf = true ∧ sample.load (zext16 0xFF) = .ok 0x12 ∧ sample.writable (zext16 0xFF) = true := by decide

theorem witness_BitBranchResult : sample.load (zext16 0xFF) = .ok 0x12 := by decide

theorem witness_CompareThenBranch :
    (Src.imm 0x80).value sample = .ok 0x80 ∧ (WideSrc.imm16 0x8000).value sample = .ok 0x8000 ∧
    (∃ t, exec (.cmp (.imm 0x80)) sample = .next t) ∧ (∃ t, exec (.sub (.imm 0x80)) sample = .next t) ∧
    (∃ t, exec (.cpx (.imm 0x80)) sample = .next t) ∧ (∃ t, exec (.cphx (.imm16 0x8000)) sample = .next t) :=
  ⟨by decide, by decide, ⟨_, rfl⟩, ⟨_, rfl⟩, ⟨_, rfl⟩, ⟨_, rfl⟩⟩

theorem witness_CompareEqualBranchResult :
    sample.load (BitVec.ofNat 16 (0x40 : Byte).toNat) = .ok 0x99 ∧
    sample.load (BitVec.ofNat 16 (hxNat sample + (0xC0 : Byte).toNat)) = .ok 0x34 ∧
    sample.load (BitVec.ofNat 16 (hxNat sample)) = .ok 0x99 ∧
    sample.load (BitVec.ofNat 16 (sample.sp.toNat + (0x01 : Byte).toNat)) = .ok 0x55 ∧
    { sample with h := 0xFF, x := 0xFF }.load (BitVec.ofNat 16 (65535 + (0x01 : Byte).toNat)) = .ok 0x77 := by
  decide

theorem witness_DecrementBranchResult :
    sample.mem.wf = true ∧ sample.load (MemRef.ix.ea sample) = .ok 0x99 ∧
    sample.writable (MemRef.ix.ea sample) = true := by decide

theorem witness_CallAndReturnResult :
    sample.mem.wf = true ∧ sample.writable sample.sp = true ∧ sample.writable (sample.sp - 1) = true ∧
    sample.Reads [(sample.sp + 1, 0x55), (sample.sp + 2, 0x00)] :=
  ⟨by decide, by decide, by decide, by decide, by decide, trivial⟩

/-- The next state of an outcome that has one. -/
def nextOf (o : Out) : State :=
  match o with
  | .next t => t
  | .fault _ => sample
  | .refused _ => sample

/-- What a routine that stores $01 at $0041 and loads A makes of a state. -/
def afterRoutine (t : State) : State := { t with a := 0x01, mem := t.mem.write 0x0041 0x01 }

theorem witness_CallThenReturn :
    sample.mem.wf = true ∧ sample.kindAt sample.sp = .ram ∧ sample.kindAt (sample.sp - 1) = .ram ∧
    ∀ i ∈ [Instr.jsr .ix, Instr.bsr 0x10], ∃ t, exec i sample = .next t ∧ (afterRoutine t).mem ≠ t.mem ∧
      (afterRoutine t).byteAt sample.sp = t.byteAt sample.sp ∧
      (afterRoutine t).byteAt (sample.sp - 1) = t.byteAt (sample.sp - 1) ∧ (afterRoutine t).sp = t.sp ∧
      (afterRoutine t).params = t.params := by
  refine ⟨by decide, by decide, by decide, fun i hi => ⟨nextOf (exec i sample), ?_⟩⟩
  simp only [List.mem_cons, List.not_mem_nil, or_false] at hi
  rcases hi with rfl | rfl <;> exact ⟨rfl, by decide, by decide, by decide, by decide, by decide⟩

theorem witness_SwiResult :
    sample.mem.wf = true ∧ frameWritable sample ∧ sample.readable 0xFFFC = true ∧
    sample.readable 0xFFFD = true := by
  unfold frameWritable; decide

theorem witness_RtiResult :
    sample.Reads [(sample.sp + 1, 0x55), (sample.sp + 2, 0x00), (sample.sp + 3, 0x00), (sample.sp + 4, 0x00),
      (sample.sp + 5, 0x00)] :=
  ⟨by decide, by decide, by decide, by decide, by decide, trivial⟩

theorem witness_RtiUndoesEntry :
    sample.mem.wf = true ∧ frameInRam sample ∧
    ∀ o ∈ [exec .swi sample, outcome (sample.interruptEntry 0xFFFA)], ∃ t, o = .next t ∧
      (afterRoutine t).mem ≠ t.mem ∧ sameFrame sample t (afterRoutine t) ∧ (afterRoutine t).sp = t.sp ∧
      (afterRoutine t).params = t.params := by
  refine ⟨by decide, by unfold frameInRam; decide, fun o ho => ⟨nextOf o, ?_⟩⟩
  unfold sameFrame
  simp only [List.mem_cons, List.not_mem_nil, or_false] at ho
  rcases ho with rfl | rfl <;> exact ⟨rfl, by decide, by decide, by decide, by decide⟩

end Sys2Proof.Tests
end

/-! The proofs about 00_scope.md: what one store or load does at each kind of address (O6), and that no step
changes the platform or the inputs (O19). -/

namespace Sys2Proof.Machine

open Sys2Proof

/-! ## One access, by the kind of its address -/

/-- A write to an I/O register is seen by its device. -/
theorem State.ioAfter_write_device {s : State} {a : Word} {id : Nat} (h : s.kindAt a = .device id) (v : Byte) :
    s.ioAfter [.write a v] = Config.deviceAfterWrite id s.io s.draws a v := by
  simp [State.ioAfter, State.ioStep, h]

/-- A read of an I/O register is seen by its device. -/
theorem State.ioAfter_read_device {s : State} {a : Word} {id : Nat} (h : s.kindAt a = .device id) :
    s.ioAfter [.read a] = Config.deviceAfterRead id s.io s.draws a := by
  simp [State.ioAfter, State.ioStep, h]

/-- One access elsewhere than to an I/O register leaves the devices alone. -/
theorem State.ioAfter_one_of_memory {s : State} {x : Access} (h : ∀ id, s.kindAt x.address ≠ .device id) :
    s.ioAfter [x] = s.io :=
  State.ioAfter_of_memory (by simpa using h)

/-- A read elsewhere than of an I/O register changes nothing. -/
theorem State.afterRead_of_memory {s : State} {a : Word} (h : ∀ id, s.kindAt a ≠ .device id) :
    s.afterRead a = s := by
  rw [State.afterRead, State.ioAfter_one_of_memory (x := .read a) h]

/-- A load from an I/O register gives what its device gives. -/
theorem State.load_device {s : State} {a : Word} {id : Nat} (h : s.kindAt a = .device id) :
    s.load a = .ok (Config.deviceRead id s.io s.draws a) := by
  simp [State.load, State.loadAs, h]

/-- A store to ROM whose writes fault stops the machine. -/
theorem State.store_romFaulting {s : State} {a : Word} (h : s.kindAt a = .romFaulting) (v : Byte) :
    s.store a v = .error (.romWrite a) := by
  simp [State.store, h]

/-- A store elsewhere than to RAM leaves memory alone. -/
theorem State.store_mem_of_not_ram {s t : State} {a : Word} {v : Byte} (h : s.store a v = .ok t)
    (hk : s.kindAt a ≠ .ram) : t.mem = s.mem := by
  rcases State.store_cases h with ⟨hram, -⟩ | ⟨-, rfl⟩
  · exact absurd hram hk
  · rfl

/-- RAM reads back the byte stored. -/
theorem State.load_store_ram {s t : State} {a : Word} {v : Byte} (h : s.store a v = .ok t)
    (hm : s.mem.wf = true) (hk : s.kindAt a = .ram) : t.load a = .ok v := by
  have hp : t.params = s.params := by rw [State.store_frame h]
  have hram : t.kindAt a = .ram := (State.kindAt_congr hp a).trans hk
  rw [State.load_memory (.inl hram), (State.store_wrote h hm).byteAt_head hk]

/-- A store changes the devices' state as its one access does. -/
theorem State.store_io {s t : State} {a : Word} {v : Byte} (h : s.store a v = .ok t) :
    t.io = s.ioAfter [.write a v] := by
  rw [State.store_frame h]

/-- Settles O6: the frame, the bytes and the devices' state of a store from the rules about `State.store`, and
the load by the kind of the address. -/
theorem storeThenLoad : Obligations.StoreThenLoad := by
  refine ⟨fun s a v hm hw => ?_, fun s a v hk => State.store_romFaulting hk v, fun s a hk => ?_,
    fun s a id hk => ⟨State.load_device hk, ?_⟩⟩
  · obtain ⟨t, ht⟩ := State.store_of_writable v hw
    have hframe : t = { s with mem := t.mem, io := t.io } := by
      rw [State.store_io ht]
      exact State.store_frame ht
    exact ⟨t, ht, hframe, State.store_wf ht hm, State.store_wrote ht hm, State.load_store_ram ht hm,
      State.store_mem_of_not_ram ht,
      fun id hk => (State.store_io ht).trans (State.ioAfter_write_device hk v),
      fun hk => (State.store_io ht).trans (State.ioAfter_one_of_memory hk)⟩
  · have hmemory : ∀ id, s.kindAt a ≠ .device id := by
      rcases hk with hk | hk | hk <;> simp [hk]
    exact ⟨State.load_memory hk, State.afterRead_of_memory hmemory⟩
  · rw [State.afterRead, State.ioAfter_read_device hk]

/-! ## The platform and the inputs -/

/-- What the platform and the environment fix for a step, and the model's count of steps. -/
structure Platform where
  params : Config.Params
  irqPin : Bool
  sources : List IrqSource
  resetLine : Bool
  draws : Nat

/-- That part of the state. -/
def State.platform (s : State) : Platform := ⟨s.params, s.irqPin, s.sources, s.resetLine, s.draws⟩

theorem State.platform_eq_iff {s t : State} :
    t.platform = s.platform ↔
      t.params = s.params ∧ t.irqPin = s.irqPin ∧ t.sources = s.sources ∧ t.resetLine = s.resetLine ∧
        t.draws = s.draws := by
  simp only [State.platform, Platform.mk.injEq]

/-! ### The shared operations keep it -/

theorem State.store_platform {s t : State} {a : Word} {v : Byte} (h : s.store a v = .ok t) :
    t.platform = s.platform := by
  rw [State.store_frame h]
  rfl

theorem State.storeWord_platform {s t : State} {a w : Word} (h : s.storeWord a w = .ok t) :
    t.platform = s.platform := by
  rw [State.storeWord_frame h]
  rfl

theorem State.push_platform {s t : State} {v : Byte} (h : s.push v = .ok t) : t.platform = s.platform := by
  rw [State.push_frame h]
  rfl

theorem State.pushWord_platform {s t : State} {w : Word} (h : s.pushWord w = .ok t) :
    t.platform = s.platform := by
  rw [State.pushWord_frame h]
  rfl

theorem State.pull_platform {s t : State} {v : Byte} (h : s.pull = .ok (v, t)) : t.platform = s.platform := by
  obtain ⟨-, rfl⟩ := State.pull_eq_ok.1 h
  rfl

theorem State.pullWord_platform {s t : State} {w : Word} (h : s.pullWord = .ok (w, t)) :
    t.platform = s.platform := by
  obtain ⟨_, _, -, -, rfl⟩ := State.pullWord_eq_ok.1 h
  rfl

/-- The pushes keep it, whatever form memory is in. -/
theorem State.takeException_platform {s t : State} {ret vec : Word} (h : s.takeException ret vec = .ok t) :
    t.platform = s.platform := by
  simp only [State.takeException, Result.bind_eq_ok, Except.ok.injEq] at h
  obtain ⟨s1, h1, s2, h2, s3, h3, s4, h4, _, -, rfl⟩ := h
  calc s4.platform = s3.platform := State.push_platform h4
    _ = s2.platform := State.push_platform h3
    _ = s1.platform := State.push_platform h2
    _ = s.platform := State.pushWord_platform h1

theorem State.returnFromException_platform {s t : State} (h : s.returnFromException = .ok t) :
    t.platform = s.platform := by
  obtain ⟨_, _, _, _, _, -, rfl⟩ := State.returnFromException_eq_ok.1 h
  rfl

theorem State.resetEntry_platform {s t : State} (h : s.resetEntry = .ok t) : t.platform = s.platform := by
  rw [(State.resetEntry_cases h).2]
  rfl

/-! ### The shapes of instructions keep it -/

theorem withSrc_platform {o : Src} {s t : State} {f : Byte → State} (h : withSrc o s f = .ok t)
    (hf : ∀ v, (f v).platform = s.platform) : t.platform = s.platform := by
  obtain ⟨v, -, rfl⟩ := withSrc_eq_ok.1 h
  exact hf v

theorem storeReg_platform {v : Byte} {m : MemRef} {s t : State} (h : storeReg v m s = .ok t) :
    t.platform = s.platform := by
  obtain ⟨u, hu, rfl⟩ := storeReg_cases h
  exact (State.store_platform hu :)

theorem onMem_platform {op : Ccr → Byte → Byte × Ccr} {m : MemRef} {s t : State} (h : onMem op m s = .ok t) :
    t.platform = s.platform := by
  obtain ⟨_, u, -, hu, rfl⟩ := onMem_cases h
  exact (State.store_platform hu :)

theorem pushReg_platform {v : Byte} {s t : State} (h : pushReg v s = .ok t) : t.platform = s.platform := by
  obtain ⟨u, hu, rfl⟩ := pushReg_cases h
  exact (State.push_platform hu :)

theorem modifyDirect_platform {f : Byte → Byte} {dd : Byte} {s t : State} (h : modifyDirect f dd s = .ok t) :
    t.platform = s.platform := by
  obtain ⟨_, u, -, hu, rfl⟩ := modifyDirect_cases h
  exact (State.store_platform hu :)

theorem testBitBranch_platform {want : Bool} {n : Fin 8} {dd rr : Byte} {s t : State}
    (h : testBitBranch want n dd rr s = .ok t) : t.platform = s.platform := by
  obtain ⟨_, -, rfl⟩ := testBitBranch_cases h
  rfl

theorem callTo_platform {s t : State} {ret target : Word} (h : callTo s ret target = .ok t) :
    t.platform = s.platform := by
  obtain ⟨u, hu, rfl⟩ := callTo_cases h
  exact (State.pushWord_platform hu :)

@[simp] theorem State.bumpHX_platform (s : State) (b : Bool) : (s.bumpHX b).platform = s.platform := by
  cases b <;> rfl

/-! ### Every instruction keeps it -/

theorem execDaa_platform {s t : State} (h : execDaa s = .next t) : t.platform = s.platform := by
  unfold execDaa at h
  split at h <;> cases h <;> rfl

theorem execDiv_platform {s t : State} (h : execDiv s = .next t) : t.platform = s.platform := by
  simp only [execDiv] at h
  split at h <;> cases h <;> rfl

theorem execDbnz_platform {m : MemRef} {rr : Byte} {s t : State} (h : execDbnz m rr s = .next t) :
    t.platform = s.platform := by
  simp only [execDbnz, outcome_eq_next, Result.bind_eq_ok, Except.ok.injEq] at h
  obtain ⟨_, -, u, hu, rfl⟩ := h
  exact (State.store_platform hu :)

theorem execCbeq_platform {m : CbeqRef} {rr : Byte} {s t : State} (h : execCbeq m rr s = .next t) :
    t.platform = s.platform := by
  simp only [execCbeq, outcome_eq_next, Result.bind_eq_ok, Except.ok.injEq] at h
  obtain ⟨_, -, rfl⟩ := h
  exact State.bumpHX_platform (s.afterRead (m.ea s)) m.increments

theorem execMov_platform {f : MovForm} {s t : State} (h : execMov f s = .next t) :
    t.platform = s.platform := by
  simp only [execMov, outcome_eq_next, Result.bind_eq_ok, Except.ok.injEq] at h
  obtain ⟨_, -, u, hu, rfl⟩ := h
  exact (State.bumpHX_platform u f.increments).trans (State.store_platform hu :)

/-- By the shape of the instruction: those that only read, those that store, push or pull, and, in the last
arm, those that touch registers, flags and PC alone. -/
theorem exec_platform {i : Instr} {s t : State} (h : exec i s = .next t) : t.platform = s.platform := by
  cases i with
  | sub | cmp | sbc | cpx | and | bit | lda | eor | adc | ora | add | ldx =>
    exact withSrc_platform (outcome_eq_next.1 h) fun _ => rfl
  | tst | cphx | ldhx =>
    obtain ⟨_, -, ht⟩ := Result.bind_eq_ok.1 (outcome_eq_next.1 h)
    cases ht
    rfl
  | brset | brclr => exact testBitBranch_platform (outcome_eq_next.1 h)
  | cbeq => exact execCbeq_platform h
  | neg | com | lsr | ror | asr | lsl | rol | dec | inc => exact onMem_platform (outcome_eq_next.1 h)
  | bset | bclr => exact modifyDirect_platform (outcome_eq_next.1 h)
  | dbnz => exact execDbnz_platform h
  | mov => exact execMov_platform h
  | sta | stx => exact storeReg_platform (outcome_eq_next.1 h)
  | clr =>
    obtain ⟨u, hu, ht⟩ := Result.bind_eq_ok.1 (outcome_eq_next.1 h)
    cases ht
    exact (State.store_platform hu :)
  | sthx =>
    obtain ⟨u, hu, ht⟩ := Result.bind_eq_ok.1 (outcome_eq_next.1 h)
    cases ht
    exact (State.storeWord_platform hu :)
  | psha | pshh | pshx => exact pushReg_platform (outcome_eq_next.1 h)
  | pula | pulh | pulx =>
    obtain ⟨⟨_, u⟩, hu, ht⟩ := Result.bind_eq_ok.1 (outcome_eq_next.1 h)
    cases ht
    exact (State.pull_platform hu :)
  | bsr | jsr => exact callTo_platform (outcome_eq_next.1 h)
  | rts =>
    obtain ⟨⟨_, u⟩, hu, ht⟩ := Result.bind_eq_ok.1 (outcome_eq_next.1 h)
    cases ht
    exact (State.pullWord_platform hu :)
  | swi => exact State.takeException_platform (outcome_eq_next.1 h)
  | rti => exact State.returnFromException_platform (outcome_eq_next.1 h)
  | daa => exact execDaa_platform h
  | div => exact execDiv_platform h
  | _ =>
    cases h
    rfl

/-! ### Every step -/

/-- Executing at PC answers a next state in two ways: the instruction there does, or its opcode is unassigned
and the platform has it reset. -/
theorem execute_cases {s t : State} (h : execute s = .next t) :
    (∃ i len, s.fetch = .ok (.instr i len) ∧ exec i (s.afterFetch len) = .next t) ∨
      (∃ b0 b1, s.fetch = .ok (.illegal b0 b1) ∧ s.params.illegalOpcode = .reset ∧
        (s.afterFetch (illegalLength b1)).resetEntry = .ok t) := by
  unfold execute at h
  split at h
  · cases h
  · next b0 b1 hf =>
    unfold State.illegalOpcode at h
    split at h
    · cases h
    · next hp => exact .inr ⟨b0, b1, hf, hp, outcome_eq_next.1 h⟩
  · next i len hf => exact .inl ⟨i, len, hf, h⟩

/-- The four things a boundary does (60_exceptions.md R417). -/
theorem step_cases {s t : State} (h : step s = .next t) :
    (s.boundaryEvent = .reset ∧ s.tick.resetEntry = .ok t) ∨
      (∃ vec, s.boundaryEvent = .interrupt vec ∧ s.tick.interruptEntry vec = .ok t) ∨
      (s.boundaryEvent = .execute ∧ execute s.tick.clearDelay = .next t) ∨
      (s.boundaryEvent = .idle ∧ t = s.tick.clearDelay) := by
  unfold step at h
  split at h
  · next hb => exact .inl ⟨hb, outcome_eq_next.1 h⟩
  · next vec hb => exact .inr (.inl ⟨vec, hb, outcome_eq_next.1 h⟩)
  · next hb => exact .inr (.inr (.inl ⟨hb, h⟩))
  · next hb => exact .inr (.inr (.inr ⟨hb, (Host.Outcome.next.inj h).symm⟩))

theorem execute_platform {s t : State} (h : execute s = .next t) : t.platform = s.platform := by
  rcases execute_cases h with ⟨i, len, -, hx⟩ | ⟨b0, b1, -, -, hr⟩
  · exact (exec_platform hx :)
  · exact (State.resetEntry_platform hr :)

/-- A step keeps the platform and the inputs and adds one to the count, which it does first. -/
theorem step_platform {s t : State} (h : step s = .next t) : t.platform = s.tick.platform := by
  rcases step_cases h with ⟨-, hr⟩ | ⟨vec, -, hi⟩ | ⟨-, hx⟩ | ⟨-, rfl⟩
  · exact State.resetEntry_platform hr
  · exact (State.takeException_platform hi :)
  · exact (execute_platform hx :)
  · rfl

/-- Settles O19: `step_platform`, field by field. -/
theorem stepKeepsPlatform : Obligations.StepKeepsPlatform :=
  fun _ _ h => State.platform_eq_iff.1 (step_platform h)

end Sys2Proof.Machine

/-! The proofs about 10_state.md: what each instruction may change of the flags, SP, H, the CLI delay and the run
state (O23, O24, O25), idling in WAIT and STOP (O14), and what changes the run state (O20). -/

namespace Sys2Proof

open Machine

/-! ## The length of a decoded instruction (30_encoding.md R81) -/

/-- The instructions a cell of an opcode map makes have the length that is read: `n` bytes before the operand
bytes, and these. -/
def MakesLength (n : Nat) : Option Form → Prop
  | none => True
  | some (.inh i) => i.length = n
  | some (.one mk) => ∀ b, (mk b).length = n + 1
  | some (.two mk) => ∀ b c, (mk b c).length = n + 2
  | some (.wide mk) => ∀ w, (mk w).length = n + 2

theorem page1Columns_makesLength : ∀ column ∈ page1Columns, ∀ cell ∈ column, MakesLength 1 cell := by
  simp only [page1Columns, column0, column1, column2, column3, column4, column5, column6, column7, column8,
    column9, columnA, columnB, columnC, columnD, columnE, columnF, List.forall_mem_cons, List.not_mem_nil,
    false_imp_iff, implies_true, and_true, true_and, MakesLength]
  repeat' apply And.intro
  all_goals intros; rfl

theorem page2Columns_makesLength :
    ∀ column ∈ [spColumn6, spColumnD, spColumnE], ∀ cell ∈ column, MakesLength 2 cell := by
  simp only [spColumn6, spColumnD, spColumnE, List.forall_mem_cons, List.not_mem_nil,
    false_imp_iff, implies_true, and_true, true_and, MakesLength]
  repeat' apply And.intro
  all_goals intros; rfl

/-- A form found in a map stands in one of its columns. -/
theorem cellAt_eq_some {columns : List (List (Option Form))} {op : Byte} {f : Form}
    (h : cellAt columns op = some f) : ∃ column ∈ columns, some f ∈ column := by
  unfold cellAt at h
  split at h
  · next column hc =>
    exact ⟨column, List.mem_of_getElem? hc, List.mem_of_getElem? (Option.join_eq_some_iff.1 h)⟩
  · cases h

theorem makesLength_of_page1 {op : Byte} {f : Form} (h : page1 op = some f) : MakesLength 1 (some f) := by
  obtain ⟨column, hcolumn, hf⟩ := cellAt_eq_some h
  exact page1Columns_makesLength column hcolumn _ hf

theorem makesLength_of_page2 {op : Byte} {f : Form} (h : page2 op = some f) : MakesLength 2 (some f) := by
  obtain ⟨column, hcolumn, hf⟩ := cellAt_eq_some h
  have hne : column ≠ [] := List.ne_nil_of_mem hf
  exact page2Columns_makesLength column (by simpa [hne] using hcolumn) _ hf

/-- What a form reads is as long as the instruction it makes. -/
theorem Form.read_length {rd : Nat → Result Byte} {f : Form} {n len : Nat} {i : Instr}
    (hf : MakesLength n (some f)) (h : f.read rd n = .ok (.instr i len)) : len = i.length := by
  cases f with
  | inh j =>
    cases h
    exact hf.symm
  | one mk =>
    obtain ⟨b, -, hi⟩ := Result.bind_eq_ok.1 h
    cases hi
    exact (hf b).symm
  | two mk =>
    obtain ⟨b, -, hi⟩ := Result.bind_eq_ok.1 h
    obtain ⟨c, -, hi⟩ := Result.bind_eq_ok.1 hi
    cases hi
    exact (hf b c).symm
  | wide mk =>
    obtain ⟨hi, -, h⟩ := Result.bind_eq_ok.1 h
    obtain ⟨lo, -, h⟩ := Result.bind_eq_ok.1 h
    cases h
    exact (hf (wordOf hi lo)).symm

/-- An instruction is read from page 2 after the pre-byte, otherwise from page 1. -/
theorem readInstr_cases {rd : Nat → Result Byte} {i : Instr} {len : Nat}
    (h : readInstr rd = .ok (.instr i len)) :
    (∃ b f, page2 b = some f ∧ f.read rd 2 = .ok (.instr i len)) ∨
      (∃ b f, page1 b = some f ∧ f.read rd 1 = .ok (.instr i len)) := by
  obtain ⟨b0, -, h⟩ := Result.bind_eq_ok.1 h
  split at h
  · obtain ⟨b1, -, h⟩ := Result.bind_eq_ok.1 h
    split at h
    · next f hf => exact .inl ⟨b1, f, hf, h⟩
    · cases h
  · split at h
    · next f hf => exact .inr ⟨b0, f, hf, h⟩
    · cases h

/-- An instruction is fetched with its length. -/
theorem Machine.State.fetch_length {s : State} {i : Instr} {len : Nat} (h : s.fetch = .ok (.instr i len)) :
    len = i.length := by
  rcases readInstr_cases h with ⟨_, f, hf, hr⟩ | ⟨_, f, hf, hr⟩
  · exact Form.read_length (makesLength_of_page2 hf) hr
  · exact Form.read_length (makesLength_of_page1 hf) hr

end Sys2Proof

namespace Sys2Proof.Machine

open Sys2Proof Sys2Proof.Claims

/-! ## What the shared operations change, their stores left open -/

theorem State.store_changes {s t : State} {a : Word} {v : Byte} (h : s.store a v = .ok t) :
    ∃ mem io, t = { s with mem := mem, io := io } :=
  ⟨_, _, State.store_frame h⟩

theorem State.storeWord_changes {s t : State} {a w : Word} (h : s.storeWord a w = .ok t) :
    ∃ mem io, t = { s with mem := mem, io := io } :=
  ⟨_, _, State.storeWord_frame h⟩

theorem State.push_changes {s t : State} {v : Byte} (h : s.push v = .ok t) :
    ∃ mem io, t = { s with mem := mem, io := io, sp := s.sp - 1 } :=
  ⟨_, _, State.push_frame h⟩

theorem State.pushWord_changes {s t : State} {w : Word} (h : s.pushWord w = .ok t) :
    ∃ mem io, t = { s with mem := mem, io := io, sp := s.sp - 1 - 1 } :=
  ⟨_, _, State.pushWord_frame h⟩

/-- `State.takeException_cases` without what is stored, so that memory may be in any form. -/
theorem State.takeException_changes {s t : State} {ret vec : Word} (h : s.takeException ret vec = .ok t) :
    ∃ mem io pc, t =
      { s with mem := mem, io := io, sp := s.sp - 5, ccr := { s.ccr with i := true }, pc := pc } := by
  simp only [State.takeException, Result.bind_eq_ok, Except.ok.injEq] at h
  obtain ⟨s1, h1, s2, h2, s3, h3, s4, h4, pc, -, rfl⟩ := h
  obtain ⟨_, _, rfl⟩ := State.pushWord_changes h1
  obtain ⟨_, _, rfl⟩ := State.push_changes h2
  obtain ⟨_, _, rfl⟩ := State.push_changes h3
  obtain ⟨mem, _, rfl⟩ := State.push_changes h4
  have hsp : s.sp - 5 = s.sp - 1 - 1 - 1 - 1 - 1 := by bv_omega
  exact ⟨mem, _, pc, by rw [hsp]⟩

/-- Where the form increments H:X, H and X change; nothing else does. -/
theorem State.bumpHX_changes (s : State) (b : Bool) : ∃ h x, s.bumpHX b = { s with h := h, x := x } := by
  cases b
  · exact ⟨s.h, s.x, rfl⟩
  · exact ⟨_, _, rfl⟩

/-! ## What an instruction may change -/

/-- `t`, but with the flags, SP, H, the CLI delay and the run state each as in `s` where 10_state.md (R22, R23,
R29, R30, R34, R42, R43) does not let `i` change it. -/
def confine (i : Instr) (s t : State) : State :=
  { t with
    ccr :=
      if changesNoFlag i then s.ccr
      else { t.ccr with
        h := if writesHalfCarry i then t.ccr.h else s.ccr.h
        i := if writesMask i then t.ccr.i else s.ccr.i }
    sp := if writesSp i then t.sp else s.sp
    h := if writesH i then t.h else s.h
    cliDelay := if i = .cli then t.cliDelay else s.cliDelay
    runState := if i = .wait ∨ i = .stop then t.runState else s.runState }

/-- Every instruction changes only what it may, by the shape of the instruction: with the next state written out,
`confine` leaves it as it is. The last arm is the instructions that touch registers, flags and PC alone. -/
theorem exec_confined {i : Instr} {s t : State} (h : exec i s = .next t) : t = confine i s t := by
  cases i with
  | sub | cmp | sbc | cpx | and | bit | lda | eor | adc | ora | add | ldx =>
    obtain ⟨_, -, rfl⟩ := withSrc_eq_ok.1 (outcome_eq_next.1 h)
    rfl
  | tst | cphx | ldhx =>
    obtain ⟨_, -, ht⟩ := Result.bind_eq_ok.1 (outcome_eq_next.1 h)
    cases ht
    rfl
  | cbeq m =>
    obtain ⟨_, -, ht⟩ := Result.bind_eq_ok.1 (outcome_eq_next.1 h)
    cases ht
    obtain ⟨_, _, hb⟩ := State.bumpHX_changes (s.afterRead (m.ea s)) m.increments
    rw [hb]
    rfl
  | brset | brclr =>
    obtain ⟨_, -, rfl⟩ := testBitBranch_cases (outcome_eq_next.1 h)
    rfl
  | neg | com | lsr | ror | asr | lsl | rol | dec | inc =>
    obtain ⟨_, u, -, hu, rfl⟩ := onMem_cases (outcome_eq_next.1 h)
    obtain ⟨_, _, rfl⟩ := State.store_changes hu
    rfl
  | bset | bclr =>
    obtain ⟨_, u, -, hu, rfl⟩ := modifyDirect_cases (outcome_eq_next.1 h)
    obtain ⟨_, _, rfl⟩ := State.store_changes hu
    rfl
  | dbnz =>
    obtain ⟨_, -, ht⟩ := Result.bind_eq_ok.1 (outcome_eq_next.1 h)
    obtain ⟨u, hu, ht⟩ := Result.bind_eq_ok.1 ht
    cases ht
    obtain ⟨_, _, rfl⟩ := State.store_changes hu
    rfl
  | mov f =>
    obtain ⟨_, -, ht⟩ := Result.bind_eq_ok.1 (outcome_eq_next.1 h)
    obtain ⟨u, hu, ht⟩ := Result.bind_eq_ok.1 ht
    cases ht
    obtain ⟨_, _, rfl⟩ := State.store_changes hu
    obtain ⟨_, _, hb⟩ := State.bumpHX_changes _ f.increments
    rw [hb]
    rfl
  | sta | stx =>
    obtain ⟨u, hu, rfl⟩ := storeReg_cases (outcome_eq_next.1 h)
    obtain ⟨_, _, rfl⟩ := State.store_changes hu
    rfl
  | clr =>
    obtain ⟨u, hu, ht⟩ := Result.bind_eq_ok.1 (outcome_eq_next.1 h)
    cases ht
    obtain ⟨_, _, rfl⟩ := State.store_changes hu
    rfl
  | sthx =>
    obtain ⟨u, hu, ht⟩ := Result.bind_eq_ok.1 (outcome_eq_next.1 h)
    cases ht
    obtain ⟨_, _, rfl⟩ := State.storeWord_changes hu
    rfl
  | psha | pshh | pshx =>
    obtain ⟨u, hu, rfl⟩ := pushReg_cases (outcome_eq_next.1 h)
    obtain ⟨_, _, rfl⟩ := State.push_changes hu
    rfl
  | pula | pulh | pulx =>
    obtain ⟨⟨_, u⟩, hu, ht⟩ := Result.bind_eq_ok.1 (outcome_eq_next.1 h)
    cases ht
    obtain ⟨-, rfl⟩ := State.pull_eq_ok.1 hu
    rfl
  | bsr | jsr =>
    obtain ⟨u, hu, rfl⟩ := callTo_cases (outcome_eq_next.1 h)
    obtain ⟨_, _, rfl⟩ := State.pushWord_changes hu
    rfl
  | rts =>
    obtain ⟨⟨_, u⟩, hu, ht⟩ := Result.bind_eq_ok.1 (outcome_eq_next.1 h)
    cases ht
    obtain ⟨_, _, -, -, rfl⟩ := State.pullWord_eq_ok.1 hu
    rfl
  | swi =>
    obtain ⟨_, _, _, rfl⟩ := State.takeException_changes (outcome_eq_next.1 h)
    rfl
  | rti =>
    obtain ⟨_, _, _, _, _, -, rfl⟩ := State.returnFromException_eq_ok.1 (outcome_eq_next.1 h)
    rfl
  | daa =>
    change execDaa s = .next t at h
    unfold execDaa at h
    split at h <;> cases h <;> rfl
  | div =>
    change execDiv s = .next t at h
    simp only [execDiv] at h
    split at h <;> cases h <;> rfl
  | _ =>
    cases h
    rfl

/-! ### Flag by flag and register by register -/

theorem exec_ccr_of_changesNoFlag {i : Instr} {s t : State} (hi : changesNoFlag i = true)
    (h : exec i s = .next t) : t.ccr = s.ccr :=
  calc t.ccr = (confine i s t).ccr := congrArg State.ccr (exec_confined h)
    _ = s.ccr := if_pos hi

theorem confine_half {i : Instr} (s t : State) (hi : writesHalfCarry i = false) :
    (confine i s t).ccr.h = s.ccr.h := by
  by_cases hf : changesNoFlag i <;> simp [confine, hf, hi]

theorem confine_mask {i : Instr} (s t : State) (hi : writesMask i = false) :
    (confine i s t).ccr.i = s.ccr.i := by
  by_cases hf : changesNoFlag i <;> simp [confine, hf, hi]

theorem exec_half {i : Instr} {s t : State} (hi : writesHalfCarry i = false) (h : exec i s = .next t) :
    t.ccr.h = s.ccr.h :=
  (congrArg (·.ccr.h) (exec_confined h)).trans (confine_half s t hi)

theorem exec_mask {i : Instr} {s t : State} (hi : writesMask i = false) (h : exec i s = .next t) :
    t.ccr.i = s.ccr.i :=
  (congrArg (·.ccr.i) (exec_confined h)).trans (confine_mask s t hi)

theorem exec_sp {i : Instr} {s t : State} (hi : writesSp i = false) (h : exec i s = .next t) : t.sp = s.sp :=
  (congrArg State.sp (exec_confined h)).trans (by simp [confine, hi])

theorem exec_h {i : Instr} {s t : State} (hi : writesH i = false) (h : exec i s = .next t) : t.h = s.h :=
  (congrArg State.h (exec_confined h)).trans (by simp [confine, hi])

theorem exec_cliDelay {i : Instr} {s t : State} (hi : i ≠ .cli) (h : exec i s = .next t) :
    t.cliDelay = s.cliDelay :=
  (congrArg State.cliDelay (exec_confined h)).trans (if_neg hi)

theorem exec_runState {i : Instr} {s t : State} (hwait : i ≠ .wait) (hstop : i ≠ .stop)
    (h : exec i s = .next t) : t.runState = s.runState :=
  (congrArg State.runState (exec_confined h)).trans (if_neg (by simp [hwait, hstop]))

theorem exec_sets_mask {i : Instr} {s t : State} (hi : i = .sei ∨ i = .swi) (h : exec i s = .next t) :
    t.ccr.i = true := by
  rcases hi with rfl | rfl
  · cases h
    rfl
  · obtain ⟨_, _, _, rfl⟩ := State.takeException_changes (outcome_eq_next.1 h)
    rfl

theorem exec_clears_mask {i : Instr} {s t : State} (hi : i = .cli ∨ i = .stop ∨ i = .wait)
    (h : exec i s = .next t) : t.ccr.i = false := by
  rcases hi with rfl | rfl | rfl <;> cases h <;> rfl

/-- Settles O23, from `exec_confined` by way of its clause for the whole CCR. -/
theorem flagFreeInstructions : Obligations.FlagFreeInstructions :=
  fun _ _ _ hi h => exec_ccr_of_changesNoFlag hi h

/-- Settles O24: what is kept from `exec_confined`, what is set or cleared from the five instructions themselves. -/
theorem flagWriters : Obligations.FlagWriters :=
  fun _ _ _ h =>
    ⟨fun hi => exec_half hi h, fun hi => exec_mask hi h, fun hi => exec_sets_mask hi h,
      fun hi => exec_clears_mask hi h⟩

/-- Settles O25: the clauses of `exec_confined` for SP, H, the CLI delay and the run state. -/
theorem registerWriters : Obligations.RegisterWriters :=
  fun _ _ _ h =>
    ⟨fun hi => exec_sp hi h, fun hi => exec_h hi h, fun hi => exec_cliDelay hi h,
      fun hwait hstop => exec_runState hwait hstop h⟩

/-! ## Boundaries -/

theorem State.boundaryEvent_eq_reset {s : State} : s.boundaryEvent = .reset ↔ s.resetLine = true := by
  unfold State.boundaryEvent
  by_cases hrun : s.runState = .running <;> cases s.resetLine <;> cases s.recognised <;> simp [hrun]

theorem State.boundaryEvent_eq_interrupt {s : State} {vec : Word} :
    s.boundaryEvent = .interrupt vec ↔ s.resetLine = false ∧ s.recognised = some vec := by
  unfold State.boundaryEvent
  by_cases hrun : s.runState = .running <;> cases s.resetLine <;> cases s.recognised <;> simp [hrun]

theorem State.boundaryEvent_eq_execute {s : State} : s.boundaryEvent = .execute ↔ s.Executes := by
  unfold State.boundaryEvent State.Executes
  cases s.resetLine <;> cases s.recognised <;> simp

theorem State.boundaryEvent_eq_idle {s : State} :
    s.boundaryEvent = .idle ↔ s.resetLine = false ∧ s.recognised = none ∧ s.runState ≠ .running := by
  unfold State.boundaryEvent
  cases s.resetLine <;> cases s.recognised <;> simp

/-! ## Idling in WAIT and STOP -/

/-- Nothing happens at the boundary, and the CLI delay, which every boundary clears, is over already. -/
def State.Idles (s : State) : Prop :=
  s.runState ≠ .running ∧ s.resetLine = false ∧ s.recognised = none ∧ s.cliDelay = false

theorem step_of_idles {s : State} (h : s.Idles) : step s = .next s.tick := by
  obtain ⟨hrun, hreset, hrec, hdelay⟩ := h
  have hidle : s.boundaryEvent = .idle := State.boundaryEvent_eq_idle.2 ⟨hreset, hrec, hrun⟩
  have hclear : s.tick.clearDelay = s.tick := by rw [State.clearDelay, ← hdelay]; rfl
  simp only [step, hidle, hclear]

/-- The count of steps plays no part in what a boundary does. -/
theorem State.Idles.tick {s : State} (h : s.Idles) : s.tick.Idles := h

theorem safeFor_of_idles (n : Nat) {s : State} (h : s.Idles) : SafeFor n s := by
  induction n generalizing s with
  | zero => trivial
  | succ n ih => exact ⟨s.tick, step_of_idles h, ih h.tick⟩

/-- Settles O14: one idle step changes the count of steps only, so the next boundary idles again. -/
theorem lowPowerIdlesForEver : Obligations.LowPowerIdlesForEver :=
  fun s hrun hreset hrec hdelay =>
    have h : s.Idles := ⟨hrun, hreset, hrec, hdelay⟩
    ⟨step_of_idles h, fun n => safeFor_of_idles n h⟩

/-! ## The run state over a step -/

theorem State.resetEntry_runState {s t : State} (h : s.resetEntry = .ok t) : t.runState = .running :=
  congrArg State.runState (State.resetEntry_cases h).2

theorem State.interruptEntry_runState {s t : State} {vec : Word} (h : s.interruptEntry vec = .ok t) :
    t.runState = .running := by
  obtain ⟨_, _, _, rfl⟩ := State.takeException_changes h
  rfl

/-- From RUNNING, WAIT and STOP alone lead elsewhere. -/
theorem execute_runState {s t : State} (hrun : s.runState = .running) (h : execute s = .next t) :
    t.runState = .running ∨ (t.runState = .waiting ∧ s.fetch = .ok (.instr .wait 1)) ∨
      (t.runState = .stopped ∧ s.fetch = .ok (.instr .stop 1)) := by
  rcases execute_cases h with ⟨i, len, hf, hx⟩ | ⟨b0, b1, -, -, hr⟩
  · have hlen := State.fetch_length hf
    by_cases hwait : i = .wait
    · subst hwait hlen
      cases hx
      exact .inr (.inl ⟨rfl, hf⟩)
    by_cases hstop : i = .stop
    · subst hstop hlen
      cases hx
      exact .inr (.inr ⟨rfl, hf⟩)
    exact .inl ((exec_runState hwait hstop hx).trans hrun)
  · exact .inl (State.resetEntry_runState hr)

/-- A step ends RUNNING after a reset or an interrupt entry; otherwise it executes, if RUNNING, or keeps the run
state. -/
theorem step_runState {s t : State} (h : step s = .next t) :
    (t.runState = .running ∧ (s.resetLine = true ∨ ∃ vec, s.recognised = some vec)) ∨
      (s.runState = .running ∧ execute s.tick.clearDelay = .next t) ∨
      (s.runState ≠ .running ∧ t.runState = s.runState) := by
  rcases step_cases h with ⟨hb, hr⟩ | ⟨vec, hb, hi⟩ | ⟨hb, hx⟩ | ⟨hb, rfl⟩
  · exact .inl ⟨State.resetEntry_runState hr, .inl (State.boundaryEvent_eq_reset.1 hb)⟩
  · obtain ⟨-, hrec⟩ := State.boundaryEvent_eq_interrupt.1 hb
    exact .inl ⟨State.interruptEntry_runState hi, .inr ⟨vec, hrec⟩⟩
  · obtain ⟨-, -, hrun⟩ := State.boundaryEvent_eq_execute.1 hb
    exact .inr (.inl ⟨hrun, hx⟩)
  · obtain ⟨-, -, hrun⟩ := State.boundaryEvent_eq_idle.1 hb
    exact .inr (.inr ⟨hrun, rfl⟩)

/-- A step from RUNNING ends in another run state only by WAIT or STOP. -/
theorem step_runState_of_running {s t : State} (hrun : s.runState = .running) (h : step s = .next t) :
    t.runState = .running ∨
      (t.runState = .waiting ∧ s.tick.clearDelay.fetch = .ok (.instr .wait 1)) ∨
      (t.runState = .stopped ∧ s.tick.clearDelay.fetch = .ok (.instr .stop 1)) := by
  rcases step_runState h with ⟨ht, -⟩ | ⟨-, hx⟩ | ⟨hne, -⟩
  · exact .inl ht
  · exact execute_runState (s := s.tick.clearDelay) hrun hx
  · exact absurd hrun hne

/-- Settles O20: what enters a low-power state from `step_runState_of_running`, what leaves it from
`step_runState`. -/
theorem runStateChanges : Obligations.RunStateChanges := by
  intro s t h
  refine ⟨fun hrun ht => ?_, fun hrun ht => ?_, fun hne ht => ?_⟩
  · rcases step_runState_of_running hrun h with hr | ⟨-, hf⟩ | ⟨hs, -⟩
    · cases ht.symm.trans hr
    · exact hf
    · cases ht.symm.trans hs
  · rcases step_runState_of_running hrun h with hr | ⟨hw, -⟩ | ⟨-, hf⟩
    · cases ht.symm.trans hr
    · cases ht.symm.trans hw
    · exact hf
  · rcases step_runState h with hleft | ⟨hrun, -⟩ | ⟨-, hkept⟩
    · exact hleft
    · exact absurd hrun hne
    · exact absurd hkept ht

end Sys2Proof.Machine

/-! The proofs about 20_memory.md: 16-bit values in RAM (O7), that an instruction without a store leaves memory
as it was (O26), and the invariant over a step (O18). -/

namespace Sys2Proof.Machine

open Sys2Proof Sys2Proof.Claims

/-! ## 16-bit values in RAM -/

theorem State.writable_of_ram {s : State} {a : Word} (h : s.kindAt a = .ram) : s.writable a = true := by
  simp [State.writable, h]

/-- The two addresses of a 16-bit value are never the same, not even at the end of memory. -/
theorem word_ne_add_one (a : Word) : a ≠ a + 1 := by bv_omega

/-- A 16-bit store to RAM changes memory only. -/
theorem State.storeWord_ram_frame {s t : State} {a w : Word} (h : s.storeWord a w = .ok t)
    (ha : s.kindAt a = .ram) (ha' : s.kindAt (a + 1) = .ram) : t = { s with mem := t.mem } := by
  have hio : s.ioAfter [.write a (hiByte w), .write (a + 1) (loByte w)] = s.io :=
    State.ioAfter_of_memory (by
      simp only [List.forall_mem_cons, Access.address, ha, ha']
      simp)
  rw [← hio]
  exact State.storeWord_frame h

/-- After a 16-bit store the high byte lies at the address, if that is RAM: the store of the low byte, which comes
after it, goes elsewhere. -/
theorem State.storeWord_byteAt_hi {s t : State} {a w : Word} (h : s.storeWord a w = .ok t)
    (hm : s.mem.wf = true) (ha : s.kindAt a = .ram) : t.byteAt a = hiByte w := by
  rw [(State.storeWord_wrote h hm).byteAt_tail (word_ne_add_one a), State.afterStores, if_pos ⟨rfl, ha⟩]

/-- After a 16-bit store the low byte lies at the next address, if that is RAM. -/
theorem State.storeWord_byteAt_lo {s t : State} {a w : Word} (h : s.storeWord a w = .ok t)
    (hm : s.mem.wf = true) (ha' : s.kindAt (a + 1) = .ram) : t.byteAt (a + 1) = loByte w :=
  (State.storeWord_wrote h hm).byteAt_head ha'

/-- A 16-bit load from RAM joins the two bytes there. -/
theorem State.loadWord_ram {s : State} {a : Word} (ha : s.kindAt a = .ram) (ha' : s.kindAt (a + 1) = .ram) :
    s.loadWord a = .ok (wordOf (s.byteAt a) (s.byteAt (a + 1))) := by
  have hread : s.afterRead a = s := State.afterRead_of_memory (by simp [ha])
  refine State.loadWord_eq_ok.2 ⟨_, _, State.load_memory (.inl ha), ?_, rfl⟩
  rw [hread]
  exact State.load_memory (.inl ha')

/-- Settles O7: where the two bytes of the store lie, and the load that joins them again. -/
theorem wordsAreBigEndian : Obligations.WordsAreBigEndian := by
  intro s a w hm ha ha'
  obtain ⟨t, ht⟩ := State.storeWord_of_writable w (State.writable_of_ram ha) (State.writable_of_ram ha')
  have hp : t.params = s.params := by rw [State.storeWord_frame ht]
  have hhi := State.storeWord_byteAt_hi ht hm ha
  have hlo := State.storeWord_byteAt_lo ht hm ha'
  refine ⟨t, ht, State.storeWord_ram_frame ht ha ha', ?_, ?_, ?_, ?_⟩
  · rw [State.loadWord_ram ((State.kindAt_congr hp a).trans ha) ((State.kindAt_congr hp (a + 1)).trans ha'),
      hhi, hlo, wordOf_hiByte_loByte]
  · rw [hhi, hiByte_toNat]
  · rw [hlo, loByte_toNat]
  · rw [← hiByte_eq_ofNat, ← loByte_eq_ofNat]
    exact State.storeWord_wrote ht hm

/-! ## Memory over an instruction -/

theorem State.takeException_wf {s t : State} {ret vec : Word} (h : s.takeException ret vec = .ok t)
    (hm : s.mem.wf = true) : t.mem.wf = true :=
  (State.takeException_cases h hm).2.1

theorem State.resetEntry_mem {s t : State} (h : s.resetEntry = .ok t) : t.mem = s.mem := by
  rw [(State.resetEntry_cases h).2]

/-- An instruction without a store leaves memory as it was, by the shape of the instruction: those with a store
are out, then those that load or pull, DAA and DIV with their branches, and, in the last arm, those that touch
registers, flags and PC alone. -/
theorem exec_mem_of_not_stores {i : Instr} {s t : State} (hi : stores i = false) (h : exec i s = .next t) :
    t.mem = s.mem := by
  cases i with
  | neg | com | lsr | ror | asr | lsl | rol | dec | inc | clr | dbnz | bset | bclr | sta | stx | sthx | mov
  | psha | pshh | pshx | bsr | jsr | swi => cases hi
  | sub | cmp | sbc | cpx | and | bit | lda | eor | adc | ora | add | ldx =>
    obtain ⟨_, -, rfl⟩ := withSrc_eq_ok.1 (outcome_eq_next.1 h)
    rfl
  | tst | cphx | ldhx =>
    obtain ⟨_, -, ht⟩ := Result.bind_eq_ok.1 (outcome_eq_next.1 h)
    cases ht
    rfl
  | cbeq m =>
    obtain ⟨_, -, ht⟩ := Result.bind_eq_ok.1 (outcome_eq_next.1 h)
    cases ht
    exact State.bumpHX_mem (s.afterRead (m.ea s)) m.increments
  | brset | brclr =>
    obtain ⟨_, -, rfl⟩ := testBitBranch_cases (outcome_eq_next.1 h)
    rfl
  | pula | pulh | pulx =>
    obtain ⟨⟨_, u⟩, hu, ht⟩ := Result.bind_eq_ok.1 (outcome_eq_next.1 h)
    cases ht
    obtain ⟨-, rfl⟩ := State.pull_eq_ok.1 hu
    rfl
  | rts =>
    obtain ⟨⟨_, u⟩, hu, ht⟩ := Result.bind_eq_ok.1 (outcome_eq_next.1 h)
    cases ht
    obtain ⟨_, _, -, -, rfl⟩ := State.pullWord_eq_ok.1 hu
    rfl
  | rti =>
    obtain ⟨_, _, _, _, _, -, rfl⟩ := State.returnFromException_eq_ok.1 (outcome_eq_next.1 h)
    rfl
  | daa =>
    change execDaa s = .next t at h
    unfold execDaa at h
    split at h <;> cases h <;> rfl
  | div =>
    change execDiv s = .next t at h
    simp only [execDiv] at h
    split at h <;> cases h <;> rfl
  | _ =>
    cases h
    rfl

/-- An instruction with a store keeps memory's canonical form, as its stores, pushes or exception do. -/
theorem exec_wf_of_stores {i : Instr} {s t : State} (hi : stores i = true) (h : exec i s = .next t)
    (hm : s.mem.wf = true) : t.mem.wf = true := by
  cases i with
  | neg | com | lsr | ror | asr | lsl | rol | dec | inc =>
    obtain ⟨_, u, -, hu, rfl⟩ := onMem_cases (outcome_eq_next.1 h)
    exact (State.store_wf hu hm :)
  | bset | bclr =>
    obtain ⟨_, u, -, hu, rfl⟩ := modifyDirect_cases (outcome_eq_next.1 h)
    exact (State.store_wf hu hm :)
  | dbnz =>
    obtain ⟨_, -, ht⟩ := Result.bind_eq_ok.1 (outcome_eq_next.1 h)
    obtain ⟨u, hu, ht⟩ := Result.bind_eq_ok.1 ht
    cases ht
    exact (State.store_wf hu hm :)
  | mov f =>
    obtain ⟨_, -, ht⟩ := Result.bind_eq_ok.1 (outcome_eq_next.1 h)
    obtain ⟨u, hu, ht⟩ := Result.bind_eq_ok.1 ht
    cases ht
    have hmem := State.bumpHX_mem u f.increments
    exact (congrArg Memory.wf hmem).trans (State.store_wf hu hm)
  | sta | stx =>
    obtain ⟨u, hu, rfl⟩ := storeReg_cases (outcome_eq_next.1 h)
    exact (State.store_wf hu hm :)
  | clr =>
    obtain ⟨u, hu, ht⟩ := Result.bind_eq_ok.1 (outcome_eq_next.1 h)
    cases ht
    exact (State.store_wf hu hm :)
  | sthx =>
    obtain ⟨u, hu, ht⟩ := Result.bind_eq_ok.1 (outcome_eq_next.1 h)
    cases ht
    exact (State.storeWord_wf hu hm :)
  | psha | pshh | pshx =>
    obtain ⟨u, hu, rfl⟩ := pushReg_cases (outcome_eq_next.1 h)
    exact (State.push_wf hu hm :)
  | bsr | jsr =>
    obtain ⟨u, hu, rfl⟩ := callTo_cases (outcome_eq_next.1 h)
    exact (State.pushWord_wf hu hm :)
  | swi => exact State.takeException_wf (outcome_eq_next.1 h) hm
  | _ => cases hi

theorem exec_wf {i : Instr} {s t : State} (h : exec i s = .next t) (hm : s.mem.wf = true) :
    t.mem.wf = true := by
  cases hi : stores i with
  | false => rwa [exec_mem_of_not_stores hi h]
  | true => exact exec_wf_of_stores hi h hm

/-- Settles O26, which is `exec_mem_of_not_stores`. -/
theorem nonStoringInstructions : Obligations.NonStoringInstructions :=
  fun _ _ _ hi h => exec_mem_of_not_stores hi h

/-! ## The invariant over a step -/

/-- From RUNNING with no CLI delay, an instruction ends in a low-power state only as WAIT or STOP, which clear I
and leave the delay alone. -/
theorem exec_lowPower {i : Instr} {s t : State} (hrun : s.runState = .running) (hdelay : s.cliDelay = false)
    (h : exec i s = .next t) : t.runState = .running ∨ (t.ccr.i = false ∧ t.cliDelay = false) := by
  by_cases hi : i = .stop ∨ i = .wait
  · have hcli : i ≠ .cli := by rcases hi with rfl | rfl <;> simp
    exact .inr ⟨exec_clears_mask (.inr hi) h, (exec_cliDelay hcli h).trans hdelay⟩
  · obtain ⟨hstop, hwait⟩ := not_or.1 hi
    exact .inl ((exec_runState hwait hstop h).trans hrun)

theorem State.resetEntry_inv {s t : State} (hm : s.mem.wf = true) (h : s.resetEntry = .ok t) : t.Inv :=
  ⟨by rwa [State.resetEntry_mem h], .inl (State.resetEntry_runState h)⟩

theorem State.interruptEntry_inv {s t : State} {vec : Word} (hm : s.mem.wf = true)
    (h : s.interruptEntry vec = .ok t) : t.Inv :=
  ⟨State.takeException_wf h hm, .inl (State.interruptEntry_runState h)⟩

/-- The fetch changes neither memory nor what the invariant says of low power, so the instruction decides, or the
reset entry that an unassigned opcode may be. -/
theorem execute_inv {s t : State} (hm : s.mem.wf = true) (hrun : s.runState = .running)
    (hdelay : s.cliDelay = false) (h : execute s = .next t) : t.Inv := by
  rcases execute_cases h with ⟨i, len, -, hx⟩ | ⟨b0, b1, -, -, hr⟩
  · exact ⟨exec_wf hx hm, exec_lowPower (s := s.afterFetch len) hrun hdelay hx⟩
  · exact State.resetEntry_inv (s := s.afterFetch (illegalLength b1)) hm hr

/-- Settles O18, by what the boundary does: both entries end RUNNING, an instruction starts from RUNNING with the
CLI delay cleared, and an idle boundary clears the delay and keeps the rest. -/
theorem stepKeepsInv : Obligations.StepKeepsInv := by
  intro s t hinv h
  obtain ⟨hm, hlow⟩ := hinv
  rcases step_cases h with ⟨-, hr⟩ | ⟨vec, -, hi⟩ | ⟨hb, hx⟩ | ⟨-, rfl⟩
  · exact State.resetEntry_inv (s := s.tick) hm hr
  · exact State.interruptEntry_inv (s := s.tick) hm hi
  · obtain ⟨-, -, hrun⟩ := State.boundaryEvent_eq_execute.1 hb
    exact execute_inv (s := s.tick.clearDelay) hm hrun rfl hx
  · exact ⟨hm, hlow.imp_right fun hclear => ⟨hclear.1, rfl⟩⟩

end Sys2Proof.Machine

/-! The proofs about 30_encoding.md: the decoder and the encoder (O1, O2, O3, O4), effective addresses and source
operands (O8), and an unassigned opcode at PC (O10). -/

namespace Sys2Proof

open Machine Claims

/-! ## What the decoder reads -/

/-- The operand bytes from which a form makes an instruction. -/
inductive Form.Makes : Form → List Byte → Instr → Prop
  | inh (i : Instr) : Makes (.inh i) [] i
  | one (mk : Byte → Instr) (b : Byte) : Makes (.one mk) [b] (mk b)
  | two (mk : Byte → Byte → Instr) (b c : Byte) : Makes (.two mk) [b, c] (mk b c)
  | wide (mk : Word → Instr) (w : Word) : Makes (.wide mk) [hiByte w, loByte w] (mk w)

/-- The opcode bytes to which a map assigns a form (30_encoding.md R98, R99). -/
inductive Selects : List Byte → Form → Prop
  | page1 {op : Byte} {f : Form} (h : page1 op = some f) : Selects [op] f
  | page2 {op : Byte} {f : Form} (h : page2 op = some f) : Selects [preByte, op] f

/-- The opcode bytes to which no map assigns a form, and how the decoder reports them (R104). -/
inductive Unassigned : List Byte → Byte → Option Byte → Prop
  | page1 {op : Byte} (hop : op ≠ preByte) (h : page1 op = none) : Unassigned [op] op none
  | page2 {op : Byte} (h : page2 op = none) : Unassigned [preByte, op] preByte (some op)

/-- Opcode bytes and the operand bytes from which their form makes the instruction. -/
inductive Assigned : List Byte → Instr → Prop
  | mk {start operands : List Byte} {f : Form} {i : Instr} (hs : Selects start f) (hm : f.Makes operands i) :
      Assigned (start ++ operands) i

/-! ### The operand bytes -/

theorem byteOf_append (start tail : List Byte) (k : Nat) :
    byteOf (start ++ tail) (start.length + k) = byteOf tail k := by
  simp [byteOf, List.getElem?_append_right]

/-- Any two bytes are those of the word they make. -/
theorem Form.makes_wide (mk : Word → Instr) (hi lo : Byte) :
    (Form.wide mk).Makes [hi, lo] (mk (wordOf hi lo)) := by
  simpa using Form.Makes.wide mk (wordOf hi lo)

/-- A form reads the operand bytes that stand at its place. -/
theorem Form.read_of_makes {f : Form} {operands : List Byte} {i : Instr} (hm : f.Makes operands i)
    (start rest : List Byte) :
    f.read (byteOf (start ++ (operands ++ rest))) start.length =
      .ok (.instr i (start.length + operands.length)) := by
  cases hm <;> simp [Form.read, byteOf, bind, Except.bind]

/-- A list ends before a form's operand bytes do, or the form makes an instruction of its next bytes. -/
theorem Form.read_cases (f : Form) (start tail : List Byte) :
    f.read (byteOf (start ++ tail)) start.length = .error .truncated ∨
      ∃ operands rest i, f.Makes operands i ∧ tail = operands ++ rest := by
  have first : byteOf (start ++ tail) start.length = byteOf tail 0 := byteOf_append start tail 0
  have second : byteOf (start ++ tail) (start.length + 1) = byteOf tail 1 := byteOf_append start tail 1
  cases f with
  | inh i => exact .inr ⟨[], tail, i, .inh i, rfl⟩
  | one mk =>
    rw [Form.read, first]
    match tail with
    | [] => exact .inl rfl
    | b :: rest => exact .inr ⟨[b], rest, _, .one mk b, rfl⟩
  | two mk =>
    rw [Form.read, first, second]
    match tail with
    | [] | [_] => exact .inl rfl
    | b :: c :: rest => exact .inr ⟨[b, c], rest, _, .two mk b c, rfl⟩
  | wide mk =>
    rw [Form.read, first, second]
    match tail with
    | [] | [_] => exact .inl rfl
    | hi :: lo :: rest => exact .inr ⟨[hi, lo], rest, _, Form.makes_wide mk hi lo, rfl⟩

/-! ### The opcode bytes -/

theorem page1_preByte : page1 preByte = none := rfl

theorem ne_preByte_of_page1 {op : Byte} {f : Form} (h : page1 op = some f) : op ≠ preByte := by
  rintro rfl
  cases page1_preByte.symm.trans h

theorem readInstr_of_selects {start : List Byte} {f : Form} (h : Selects start f) (tail : List Byte) :
    readInstr (byteOf (start ++ tail)) = f.read (byteOf (start ++ tail)) start.length := by
  cases h with
  | page1 hf => simp [readInstr, byteOf, bind, Except.bind, ne_preByte_of_page1 hf, hf]
  | page2 hf => simp [readInstr, byteOf, bind, Except.bind, hf]

theorem readInstr_of_unassigned {start : List Byte} {b0 : Byte} {b1 : Option Byte} (h : Unassigned start b0 b1)
    (tail : List Byte) : readInstr (byteOf (start ++ tail)) = .ok (.illegal b0 b1) := by
  cases h with
  | page1 hop hf => simp [readInstr, byteOf, bind, Except.bind, hop, hf]
  | page2 hf => simp [readInstr, byteOf, bind, Except.bind, hf]

/-! ### The decoder -/

theorem decode_of_assigned {code : List Byte} {i : Instr} (h : Assigned code i) (rest : List Byte) :
    decode (code ++ rest) = .ok (i, rest) := by
  obtain ⟨hs, hm⟩ := h
  rw [List.append_assoc, decode, readInstr_of_selects hs, Form.read_of_makes hm]
  simp [← List.length_append, ← List.append_assoc]

theorem decode_of_unassigned {start : List Byte} {b0 : Byte} {b1 : Option Byte} (h : Unassigned start b0 b1)
    (tail : List Byte) : decode (start ++ tail) = .error (.illegalOpcode b0 b1) := by
  rw [decode, readInstr_of_unassigned h]

/-- What can stand at the head of a list of bytes. -/
inductive StreamHead : List Byte → Prop
  | truncated {bytes : List Byte} (h : decode bytes = .error .truncated) : StreamHead bytes
  | unassigned {start : List Byte} {b0 : Byte} {b1 : Option Byte} (h : Unassigned start b0 b1)
      (tail : List Byte) : StreamHead (start ++ tail)
  | assigned {code : List Byte} {i : Instr} (h : Assigned code i) (rest : List Byte) : StreamHead (code ++ rest)

theorem streamHead_of_selects {start : List Byte} {f : Form} (h : Selects start f) (tail : List Byte) :
    StreamHead (start ++ tail) := by
  rcases Form.read_cases f start tail with hr | ⟨operands, rest, i, hm, rfl⟩
  · exact .truncated (by rw [decode, readInstr_of_selects h, hr])
  · rw [← List.append_assoc]
    exact .assigned (.mk h hm) rest

/-- Nothing else can stand there. -/
theorem streamHead (bytes : List Byte) : StreamHead bytes := by
  match bytes with
  | [] => exact .truncated rfl
  | b0 :: bytes =>
    by_cases hpre : b0 = preByte
    · subst hpre
      match bytes with
      | [] => exact .truncated rfl
      | b1 :: tail =>
        cases hf : page2 b1 with
        | none => exact .unassigned (.page2 hf) tail
        | some f => exact streamHead_of_selects (.page2 hf) tail
    · cases hf : page1 b0 with
      | none => exact .unassigned (.page1 hpre hf) bytes
      | some f => exact streamHead_of_selects (.page1 hf) bytes

/-- What decodes is an assigned opcode with its operand bytes. -/
theorem assigned_of_decode {bytes rest : List Byte} {i : Instr} (h : decode bytes = .ok (i, rest)) :
    ∃ code, Assigned code i ∧ bytes = code ++ rest := by
  cases streamHead bytes with
  | truncated ht => cases ht.symm.trans h
  | unassigned hu tail => cases (decode_of_unassigned hu tail).symm.trans h
  | assigned ha rest' =>
    cases (decode_of_assigned ha rest').symm.trans h
    exact ⟨_, ha, rfl⟩

/-- What is reported as illegal is unassigned. -/
theorem unassigned_of_decode {bytes : List Byte} {b0 : Byte} {b1 : Option Byte}
    (h : decode bytes = .error (.illegalOpcode b0 b1)) : ∃ start, Unassigned start b0 b1 := by
  cases streamHead bytes with
  | truncated ht => cases ht.symm.trans h
  | unassigned hu tail =>
    cases (decode_of_unassigned hu tail).symm.trans h
    exact ⟨_, hu⟩
  | assigned ha rest => cases (decode_of_assigned ha rest).symm.trans h

/-! ## The maps hold the encoder's instructions -/

/-- The instruction is well formed and these bytes are its encoding. -/
def EncodesTo (i : Instr) (code : List Byte) : Prop := i.wf = true ∧ encode i = code

/-- Every instruction the form makes is encoded by these opcode bytes and its operand bytes. -/
def Form.Encodes (start : List Byte) : Form → Prop
  | .inh i => EncodesTo i (start ++ [])
  | .one mk => ∀ b, EncodesTo (mk b) (start ++ [b])
  | .two mk => ∀ b c, EncodesTo (mk b c) (start ++ [b, c])
  | .wide mk => ∀ w, EncodesTo (mk w) (start ++ [hiByte w, loByte w])

theorem Form.Encodes.of_makes {start operands : List Byte} {f : Form} {i : Instr} (hf : f.Encodes start)
    (hm : f.Makes operands i) : EncodesTo i (start ++ operands) := by
  cases hm with
  | inh i => exact hf
  | one mk b => exact hf b
  | two mk b c => exact hf b c
  | wide mk w => exact hf w

/-- Every form in the map encodes with the opcode byte of its place, after the bytes `pre`. -/
def MapEncodes (pre : List Byte) (columns : List (List (Option Form))) : Prop :=
  ∀ column ∈ columns.zipIdx, ∀ cell ∈ column.1.zipIdx, ∀ f ∈ cell.1,
    f.Encodes (pre ++ [opcode column.2 cell.2])

/-- A byte is the opcode of its two halves (30_encoding.md R83). -/
theorem opcode_div_mod (b : Byte) : opcode (b.toNat / 16) (b.toNat % 16) = b := by
  rw [opcode, Nat.div_add_mod, BitVec.ofNat_toNat, BitVec.setWidth_eq]

theorem MapEncodes.encodes_of_cellAt {pre : List Byte} {columns : List (List (Option Form))} {op : Byte} {f : Form}
    (hmap : MapEncodes pre columns) (h : cellAt columns op = some f) : f.Encodes (pre ++ [op]) := by
  unfold cellAt at h
  split at h
  · next column hcolumn =>
    have hcell := hmap (column, _) (List.mk_mem_zipIdx_iff_getElem?.2 hcolumn) (some f, _)
      (List.mk_mem_zipIdx_iff_getElem?.2 (Option.join_eq_some_iff.1 h)) f rfl
    rwa [opcode_div_mod] at hcell
  · cases h

/-- Cell by cell of page 1: what the encoder says of each instruction there, whatever its operands. -/
theorem encodes_of_page1 {op : Byte} {f : Form} (h : page1 op = some f) : f.Encodes [op] := by
  refine MapEncodes.encodes_of_cellAt (pre := []) ?_ h
  simp only [MapEncodes, page1Columns, column0, column1, column2, column3, column4, column5, column6, column7,
    column8, column9, columnA, columnB, columnC, columnD, columnE, columnF, List.zipIdx_cons, List.zipIdx_nil,
    List.forall_mem_cons, List.not_mem_nil, false_imp_iff, implies_true, and_true, true_and, Option.mem_def,
    Option.some.injEq, forall_eq', reduceCtorEq, Form.Encodes]
  repeat' constructor
  all_goals intros; exact ⟨rfl, rfl⟩

/-- Cell by cell of page 2. -/
theorem encodes_of_page2 {op : Byte} {f : Form} (h : page2 op = some f) : f.Encodes [preByte, op] := by
  refine MapEncodes.encodes_of_cellAt (pre := [preByte]) ?_ h
  simp only [MapEncodes, spColumn6, spColumnD, spColumnE, List.zipIdx_cons, List.zipIdx_nil,
    List.forall_mem_cons, List.not_mem_nil, false_imp_iff, implies_true, and_true, true_and, Option.mem_def,
    Option.some.injEq, forall_eq', reduceCtorEq, Form.Encodes]
  repeat' constructor
  all_goals intros; exact ⟨rfl, rfl⟩

theorem encodesTo_of_assigned {code : List Byte} {i : Instr} (h : Assigned code i) : EncodesTo i code := by
  obtain ⟨hs, hm⟩ := h
  cases hs with
  | page1 hf => exact (encodes_of_page1 hf).of_makes hm
  | page2 hf => exact (encodes_of_page2 hf).of_makes hm

theorem Form.Makes.length {f : Form} {operands : List Byte} {i : Instr} (h : f.Makes operands i) {n : Nat}
    (hf : MakesLength n (some f)) : i.length = n + operands.length := by
  cases h with
  | inh i => exact hf
  | one mk b => exact hf b
  | two mk b c => exact hf b c
  | wide mk w => exact hf w

theorem length_of_assigned {code : List Byte} {i : Instr} (h : Assigned code i) : code.length = i.length := by
  obtain ⟨hs, hm⟩ := h
  rw [List.length_append]
  cases hs with
  | page1 hf => exact (hm.length (makesLength_of_page1 hf)).symm
  | page2 hf => exact (hm.length (makesLength_of_page2 hf)).symm

/-- Settles O2: what decodes is an assigned opcode with its operand bytes, which every cell of the maps makes the
encoding of its instruction. -/
theorem decodedIsEncoded : Obligations.DecodedIsEncoded := by
  intro bytes i rest h
  obtain ⟨code, ha, rfl⟩ := assigned_of_decode h
  obtain ⟨hwf, rfl⟩ := encodesTo_of_assigned ha
  exact ⟨hwf, rfl, length_of_assigned ha⟩

/-! ## Every encoding is in the maps -/

theorem assigned_inh {op : Byte} {i : Instr} (h : page1 op = some (.inh i)) : Assigned [op] i :=
  .mk (.page1 h) (.inh i)

theorem assigned_one {op : Byte} {mk : Byte → Instr} (h : page1 op = some (.one mk)) (b : Byte) :
    Assigned [op, b] (mk b) :=
  .mk (.page1 h) (.one mk b)

theorem assigned_two {op : Byte} {mk : Byte → Byte → Instr} (h : page1 op = some (.two mk)) (b c : Byte) :
    Assigned [op, b, c] (mk b c) :=
  .mk (.page1 h) (.two mk b c)

theorem assigned_wide {op : Byte} {mk : Word → Instr} (h : page1 op = some (.wide mk)) (w : Word) :
    Assigned [op, hiByte w, loByte w] (mk w) :=
  .mk (.page1 h) (.wide mk w)

theorem assigned_page2_one {op : Byte} {mk : Byte → Instr} (h : page2 op = some (.one mk)) (b : Byte) :
    Assigned [preByte, op, b] (mk b) :=
  .mk (.page2 h) (.one mk b)

theorem assigned_page2_two {op : Byte} {mk : Byte → Byte → Instr} (h : page2 op = some (.two mk))
    (b c : Byte) : Assigned [preByte, op, b, c] (mk b c) :=
  .mk (.page2 h) (.two mk b c)

theorem assigned_page2_wide {op : Byte} {mk : Word → Instr} (h : page2 op = some (.wide mk)) (w : Word) :
    Assigned [preByte, op, hiByte w, loByte w] (mk w) :=
  .mk (.page2 h) (.wide mk w)

/-- Row `lo` of the maps holds `mk` in the five modes of page 1 (30_encoding.md R83, R101). -/
structure JumpRow (lo : Nat) (mk : MemRef → Instr) : Prop where
  dir : page1 (opcode 11 lo) = some (.one fun dd => mk (.dir dd))
  ext : page1 (opcode 12 lo) = some (.wide fun w => mk (.ext w))
  ix2 : page1 (opcode 13 lo) = some (.wide fun w => mk (.ix2 w))
  ix1 : page1 (opcode 14 lo) = some (.one fun ff => mk (.ix1 ff))
  ix : page1 (opcode 15 lo) = some (.inh (mk .ix))

/-- And in the two stack-pointer modes. -/
structure MemRow (lo : Nat) (mk : MemRef → Instr) : Prop extends JumpRow lo mk where
  sp1 : page2 (opcode 14 lo) = some (.one fun ff => mk (.sp1 ff))
  sp2 : page2 (opcode 13 lo) = some (.wide fun w => mk (.sp2 w))

/-- Row `lo` of the read-modify-write columns holds `mk` in their four modes. -/
structure RmwRow (lo : Nat) (mk : MemRef → Instr) : Prop where
  dir : page1 (opcode 3 lo) = some (.one fun dd => mk (.dir dd))
  ix1 : page1 (opcode 6 lo) = some (.one fun ff => mk (.ix1 ff))
  ix : page1 (opcode 7 lo) = some (.inh (mk .ix))
  sp1 : page2 (opcode 6 lo) = some (.one fun ff => mk (.sp1 ff))

theorem JumpRow.assigned {lo : Nat} {mk : MemRef → Instr} (row : JumpRow lo mk) {m : MemRef}
    (hm : m.jumpMode = true) : Assigned (encodeMem lo m) (mk m) := by
  cases m with
  | dir dd => exact assigned_one row.dir dd
  | ext w => exact assigned_wide row.ext w
  | ix2 w => exact assigned_wide row.ix2 w
  | ix1 ff => exact assigned_one row.ix1 ff
  | ix => exact assigned_inh row.ix
  | sp1 | sp2 => cases hm

theorem MemRow.assigned {lo : Nat} {mk : MemRef → Instr} (row : MemRow lo mk) (m : MemRef) :
    Assigned (encodeMem lo m) (mk m) := by
  cases m with
  | sp1 ff => exact assigned_page2_one row.sp1 ff
  | sp2 w => exact assigned_page2_wide row.sp2 w
  | _ => exact row.toJumpRow.assigned rfl

theorem assigned_encodeJump {lo : Nat} {mk : MemRef → Instr} (row : JumpRow lo mk) {m : MemRef}
    (hm : m.jumpMode = true) : Assigned (encodeJump lo m) (mk m) := by
  rw [encodeJump, if_pos hm]
  exact row.assigned hm

theorem assigned_encodeSrc {lo : Nat} {mk : Src → Instr}
    (himm : page1 (opcode 10 lo) = some (.one fun ii => mk (.imm ii))) (row : MemRow lo fun m => mk (.mem m))
    (o : Src) : Assigned (encodeSrc lo o) (mk o) := by
  cases o with
  | imm ii => exact assigned_one himm ii
  | mem m => exact row.assigned m

theorem assigned_encodeRmw {lo : Nat} {mk : MemRef → Instr} (row : RmwRow lo mk) {m : MemRef}
    (hm : m.rmwMode = true) : Assigned (encodeRmw lo m []) (mk m) := by
  cases m with
  | dir dd => exact assigned_one row.dir dd
  | ix1 ff => exact assigned_one row.ix1 ff
  | ix => exact assigned_inh row.ix
  | sp1 ff => exact assigned_page2_one row.sp1 ff
  | ext | ix2 | sp2 => cases hm

/-- DBNZ has the modes of the read-modify-write group and one byte more. -/
theorem assigned_dbnz {m : MemRef} (hm : m.rmwMode = true) (rr : Byte) :
    Assigned (encode (.dbnz m rr)) (.dbnz m rr) := by
  cases m with
  | dir dd => exact assigned_two (mk := fun dd rr => .dbnz (.dir dd) rr) rfl dd rr
  | ix1 ff => exact assigned_two (mk := fun ff rr => .dbnz (.ix1 ff) rr) rfl ff rr
  | ix => exact assigned_one (mk := fun rr => .dbnz .ix rr) rfl rr
  | sp1 ff => exact assigned_page2_two (mk := fun ff rr => .dbnz (.sp1 ff) rr) rfl ff rr
  | ext | ix2 | sp2 => cases hm

theorem assigned_cbeq (m : CbeqRef) (rr : Byte) : Assigned (encode (.cbeq m rr)) (.cbeq m rr) := by
  cases m with
  | dir dd => exact assigned_two (mk := fun dd rr => .cbeq (.dir dd) rr) rfl dd rr
  | ix1Inc ff => exact assigned_two (mk := fun ff rr => .cbeq (.ix1Inc ff) rr) rfl ff rr
  | ixInc => exact assigned_one (mk := fun rr => .cbeq .ixInc rr) rfl rr
  | sp1 ff => exact assigned_page2_two (mk := fun ff rr => .cbeq (.sp1 ff) rr) rfl ff rr

theorem assigned_mov (f : MovForm) : Assigned (encode (.mov f)) (.mov f) := by
  cases f with
  | dd s d => exact assigned_two (mk := fun s d => .mov (.dd s d)) rfl s d
  | dixInc s => exact assigned_one (mk := fun s => .mov (.dixInc s)) rfl s
  | imd ii d => exact assigned_two (mk := fun ii d => .mov (.imd ii d)) rfl ii d
  | ixIncD d => exact assigned_one (mk := fun d => .mov (.ixIncD d)) rfl d

theorem assigned_ldhx (w : WideSrc) : Assigned (encode (.ldhx w)) (.ldhx w) := by
  cases w with
  | imm16 v => exact assigned_wide (mk := fun v => .ldhx (.imm16 v)) rfl v
  | dir dd => exact assigned_one (mk := fun dd => .ldhx (.dir dd)) rfl dd

theorem assigned_cphx (w : WideSrc) : Assigned (encode (.cphx w)) (.cphx w) := by
  cases w with
  | imm16 v => exact assigned_wide (mk := fun v => .cphx (.imm16 v)) rfl v
  | dir dd => exact assigned_one (mk := fun dd => .cphx (.dir dd)) rfl dd

/-- The encoding of a well-formed instruction is an assigned opcode with its operand bytes, by the shape of the
instruction: the bit number in the opcode, no operand byte, one, two, then the instructions with several modes. -/
theorem assigned_encode {i : Instr} (h : i.wf = true) : Assigned (encode i) i := by
  cases i with
  | brset n dd rr => exact assigned_two (mk := .brset n) (by fin_cases n <;> rfl) dd rr
  | brclr n dd rr => exact assigned_two (mk := .brclr n) (by fin_cases n <;> rfl) dd rr
  | bset n dd => exact assigned_one (mk := .bset n) (by fin_cases n <;> rfl) dd
  | bclr n dd => exact assigned_one (mk := .bclr n) (by fin_cases n <;> rfl) dd
  | nega | mul | coma | lsra | rora | asra | lsla | rola | deca | inca | tsta | clra | negx | div | comx | lsrx
  | rorx | asrx | lslx | rolx | decx | incx | tstx | clrx | nsa | daa | rti | rts | swi | tap | tpa | pula | psha
  | pulx | pshx | pulh | pshh | clrh | stop | wait | txs | tsx | tax | clc | sec | cli | sei | rsp | nop | txa =>
    exact assigned_inh rfl
  | bra b | brn b | bhi b | bls b | bcc b | bcs b | bne b | beq b | bhcc b | bhcs b | bpl b | bmi b | bmc b
  | bms b | bil b | bih b | bge b | blt b | bgt b | ble b | bsr b | dbnza b | dbnzx b | sthx b | ais b | aix b =>
    exact assigned_one rfl b
  | cbeqa ii rr | cbeqx ii rr => exact assigned_two rfl ii rr
  | neg | com | lsr | ror | asr | lsl | rol | dec | inc | tst | clr =>
    exact assigned_encodeRmw ⟨rfl, rfl, rfl, rfl⟩ h
  | sub o | cmp o | sbc o | cpx o | and o | bit o | lda o | eor o | adc o | ora o | add o | ldx o =>
    exact assigned_encodeSrc rfl ⟨⟨rfl, rfl, rfl, rfl, rfl⟩, rfl, rfl⟩ o
  | sta m | stx m => exact MemRow.assigned ⟨⟨rfl, rfl, rfl, rfl, rfl⟩, rfl, rfl⟩ m
  | jmp | jsr => exact assigned_encodeJump ⟨rfl, rfl, rfl, rfl, rfl⟩ h
  | dbnz m rr => exact assigned_dbnz h rr
  | cbeq m rr => exact assigned_cbeq m rr
  | mov f => exact assigned_mov f
  | ldhx w => exact assigned_ldhx w
  | cphx w => exact assigned_cphx w

/-- Settles O1: the encoding stands in the maps, and the decoder reads what stands there. -/
theorem decodeOfEncode : Obligations.DecodeOfEncode :=
  fun _ rest h => decode_of_assigned (assigned_encode h) rest

/-! ## Words written out -/

theorem decodes_of_encodesTo {bytes : List Byte} {i : Instr} (h : EncodesTo i bytes) : Decodes bytes i := by
  obtain ⟨hwf, rfl⟩ := h
  exact fun rest => decode_of_assigned (assigned_encode hwf) rest

/-- Settles O3: each word is the encoding of its instruction. -/
theorem sampleWordsDecode : Obligations.SampleWordsDecode := by
  refine ⟨?_, ?_, ?_, ?_, ?_, ?_, ?_, ?_, ?_, ?_, ?_, ?_⟩
  all_goals exact decodes_of_encodesTo ⟨rfl, rfl⟩

/-! ## Unassigned opcodes -/

/-- Every byte is the opcode of one place in a map. -/
theorem forall_byte_of_forall_opcode (P : Byte → Prop) (h : ∀ hi lo : Fin 16, P (opcode hi lo)) (b : Byte) :
    P b := by
  have hb := b.isLt
  have := h ⟨b.toNat / 16, by omega⟩ ⟨b.toNat % 16, by omega⟩
  rwa [opcode_div_mod] at this

theorem page1_isNone_iff (b : Byte) :
    (page1 b).isNone = true ↔ b = preByte ∨ b ∈ ([0x32, 0x3E, 0x82, 0x8D, 0x96, 0xAC] : List Byte) :=
  forall_byte_of_forall_opcode
    (fun b => (page1 b).isNone = true ↔ b = preByte ∨ b ∈ ([0x32, 0x3E, 0x82, 0x8D, 0x96, 0xAC] : List Byte))
    (by decide) b

theorem page2_isNone_iff (b : Byte) : (page2 b).isNone = true ↔ onPage2 b = false :=
  forall_byte_of_forall_opcode (fun b => (page2 b).isNone = true ↔ onPage2 b = false) (by decide) b

/-- Settles O4: the places of the two maps that hold no form, and the decoder on them. -/
theorem unassignedOpcodesRejected : Obligations.UnassignedOpcodesRejected := by
  refine ⟨fun b0 hb0 rest => ?_, fun b1 rest hb1 => ?_, fun bytes b0 b1 h => ?_⟩
  · have hne : b0 ≠ preByte := by
      rintro rfl
      revert hb0
      decide
    have hf : page1 b0 = none := Option.isNone_iff_eq_none.1 ((page1_isNone_iff b0).2 (.inr hb0))
    exact decode_of_unassigned (.page1 hne hf) rest
  · have hf : page2 b1 = none := Option.isNone_iff_eq_none.1 ((page2_isNone_iff b1).2 hb1)
    exact decode_of_unassigned (.page2 hf) rest
  · obtain ⟨start, hu⟩ := unassigned_of_decode h
    cases hu with
    | page1 hne hf =>
      exact .inl ⟨rfl, ((page1_isNone_iff b0).1 (Option.isNone_iff_eq_none.2 hf)).resolve_left hne⟩
    | page2 hf => exact .inr ⟨rfl, _, rfl, (page2_isNone_iff _).1 (Option.isNone_iff_eq_none.2 hf)⟩

/-! ## Effective addresses and source operands -/

/-- The effective address is the number `address` modulo 2^16. -/
theorem MemRef.ea_toNat (m : MemRef) (s : State) : (m.ea s).toNat = address m s % 65536 := by
  cases m with
  | dir | ext | ix =>
    refine (Nat.mod_eq_of_lt (BitVec.isLt _)).symm.trans ?_
    simp only [MemRef.ea, address, hxNat, zext16_toNat, State.hx_toNat, Nat.reducePow]
  | ix2 | ix1 | sp1 | sp2 =>
    simp only [MemRef.ea, address, hxNat, BitVec.toNat_add, zext16_toNat, State.hx_toNat, Nat.reducePow]

/-- The address after a direct address; not confined to the direct page. -/
theorem zext16_add_one (dd : Byte) : zext16 dd + 1 = BitVec.ofNat 16 (dd.toNat + 1) := by
  rw [zext16_eq_ofNat, BitVec.ofNat_add]
  rfl

theorem WideSrc.value_dir {dd hi lo : Byte} {s : State}
    (h : s.Reads [(BitVec.ofNat 16 dd.toNat, hi), (BitVec.ofNat 16 (dd.toNat + 1), lo)]) :
    (WideSrc.dir dd).value s = .ok (BitVec.ofNat 16 (256 * hi.toNat + lo.toNat)) := by
  obtain ⟨hhi, hlo, -⟩ := h
  rw [← zext16_add_one, ← zext16_eq_ofNat] at hlo
  rw [← zext16_eq_ofNat] at hhi
  exact State.loadWord_eq_ok.2 ⟨hi, lo, hhi, hlo, (wordOf_eq_ofNat hi lo).symm⟩

theorem WideSrc.accesses_dir (dd : Byte) :
    (WideSrc.dir dd).accesses = reads [BitVec.ofNat 16 dd.toNat, BitVec.ofNat 16 (dd.toNat + 1)] := by
  rw [← zext16_add_one, ← zext16_eq_ofNat]
  rfl

/-- Settles O8: CBEQ's modes are memory modes, and the values are loads from the effective address. -/
theorem effectiveAddresses : Obligations.EffectiveAddresses :=
  ⟨MemRef.ea_toNat, fun dd _ => zext16_toNat dd, fun ff s => MemRef.ea_toNat (.ix1 ff) s,
    fun s => State.hx_toNat s, fun ff s => MemRef.ea_toNat (.sp1 ff) s, fun _ _ => ⟨rfl, rfl⟩,
    fun _ _ hk => State.load_memory hk, fun _ _ _ hk => State.load_device hk, fun _ _ => rfl,
    fun _ _ => ⟨rfl, rfl⟩, fun _ _ _ _ h => WideSrc.value_dir h, WideSrc.accesses_dir⟩

end Sys2Proof

namespace Sys2Proof.Machine

open Sys2Proof

/-! ## An unassigned opcode at PC -/

theorem step_of_executes {s : State} (h : s.Executes) : step s = execute s.tick.clearDelay := by
  simp only [step, State.boundaryEvent_eq_execute.2 h]

/-- The fetch changes neither the parameters nor PC. -/
theorem execute_illegal_of_fault {s : State} {b0 : Byte} {b1 : Option Byte} (hf : s.fetch = .ok (.illegal b0 b1))
    (hp : s.params.illegalOpcode = .fault) : execute s = .fault (.illegalOpcode s.pc b0 b1) := by
  simp only [execute, hf, State.illegalOpcode, State.afterFetch_params, State.afterFetch_pc, hp]

theorem execute_illegal_of_reset {s : State} {b0 : Byte} {b1 : Option Byte} (hf : s.fetch = .ok (.illegal b0 b1))
    (hp : s.params.illegalOpcode = .reset) :
    execute s = outcome (s.afterFetch (illegalLength b1)).resetEntry := by
  simp only [execute, hf, State.illegalOpcode, State.afterFetch_params, hp]

/-- Settles O10: the step executes, the fetch finds the opcode, and the parameter decides. -/
theorem illegalOpcodeStops : Obligations.IllegalOpcodeStops := by
  intro s b0 b1 hx hf
  rw [step_of_executes hx]
  exact ⟨fun hp => execute_illegal_of_fault hf hp, fun hp => execute_illegal_of_reset hf hp⟩

end Sys2Proof.Machine

/-! The proofs about 40_load_store_move.md: stores (O28), clears (O29), MOV (O30) and loads (O27). Each
instruction's next state is written out in numbers: the flags of a move, H:X by its bytes, PC after the
instruction, and for a store the frame and the bytes of `State.store`. -/

namespace Sys2Proof

open Machine

/-! ## The bytes of a number taken modulo 2^16 -/

theorem hiByte_ofNat (n : Nat) : hiByte (BitVec.ofNat 16 n) = BitVec.ofNat 8 (n / 256) := by
  apply BitVec.eq_of_toNat_eq
  simp only [hiByte_toNat, BitVec.toNat_ofNat]
  omega

theorem loByte_ofNat (n : Nat) : loByte (BitVec.ofNat 16 n) = BitVec.ofNat 8 (n % 256) := by
  apply BitVec.eq_of_toNat_eq
  simp only [loByte_toNat, BitVec.toNat_ofNat]
  omega

end Sys2Proof

namespace Sys2Proof.Machine

open Sys2Proof Sys2Proof.Claims

/-! ## The model's operations in the numbers of the statements -/

theorem Ccr.afterMove_eq_moved8 (f : Ccr) (r : Byte) : f.afterMove r = moved8 f r.toNat := by
  have hz : r = 0 ↔ r.toNat = 0 := byte_eq_zero_iff r
  simp only [Ccr.afterMove, Ccr.setNZ8, moved8, nz8, msb_eq_decide_le, hz]

theorem Ccr.afterMove16_eq_moved16 (f : Ccr) (r : Word) : f.afterMove16 r = moved16 f r.toNat := by
  have hz : r = 0 ↔ r.toNat = 0 := word_eq_zero_iff r
  simp only [Ccr.afterMove16, Ccr.setNZ16, moved16, nz16, BitVec.msb_eq_decide, Nat.reduceSub, Nat.reducePow, hz]

theorem State.advance_eq (s : State) (len : Nat) : s.advance len = { s with pc := nextPc s len } := by
  rw [State.advance, State.next_eq_ofNat, nextPc]

theorem State.setHX_eq (s : State) (w : Word) :
    s.setHX w = { s with h := BitVec.ofNat 8 (w.toNat / 256), x := BitVec.ofNat 8 (w.toNat % 256) } := by
  rw [State.setHX, hiByte_eq_ofNat, loByte_eq_ofNat]

/-- H:X goes up by one or by nothing; the carry out of bit 15 is lost with the high byte's. -/
theorem State.bumpHX_eq (s : State) (b : Bool) :
    s.bumpHX b = { s with
      h := BitVec.ofNat 8 ((hxNat s + b.toNat) / 256), x := BitVec.ofNat 8 ((hxNat s + b.toNat) % 256) } := by
  have hhx : s.hx = BitVec.ofNat 16 (hxNat s) := wordOf_eq_ofNat s.h s.x
  rw [← hiByte_ofNat, ← loByte_ofNat, BitVec.ofNat_add, ← hhx]
  cases b with
  | false => simp [State.hx]
  | true => rfl

/-! ## Stores -/

/-- The register stores and CLR: one write at the effective address, and the flags of a move of that byte. -/
theorem storeReg_result {m : MemRef} {s : State} (v : Byte) (hm : s.mem.wf = true)
    (hw : s.writable (m.ea s) = true) :
    ∃ t, outcome (storeReg v m s) = .next t ∧
      t = { s with
        mem := t.mem, io := s.ioAfter [.write (m.ea s) v], ccr := moved8 s.ccr v.toNat,
        pc := nextPc s m.length } ∧
      s.Wrote t [(m.ea s, v)] := by
  obtain ⟨u, hu⟩ := State.store_of_writable v hw
  refine ⟨{ u with ccr := s.ccr.afterMove v }.advance m.length, ?_, ?_, (State.store_wrote hu hm).congr rfl⟩
  · rw [storeReg, hu]
    rfl
  · rw [State.advance_eq, Ccr.afterMove_eq_moved8, State.store_frame hu]
    rfl

/-- STHX: H at the direct address, then X at the next. -/
theorem execSthx_result {dd : Byte} {s : State} (hm : s.mem.wf = true) (hw : s.writable (zext16 dd) = true)
    (hw' : s.writable (zext16 dd + 1) = true) :
    ∃ t, execSthx dd s = .next t ∧
      t = { s with
        mem := t.mem, io := s.ioAfter [.write (zext16 dd) s.h, .write (zext16 dd + 1) s.x],
        ccr := moved16 s.ccr (hxNat s), pc := nextPc s 2 } ∧
      s.Wrote t [(zext16 dd + 1, s.x), (zext16 dd, s.h)] := by
  obtain ⟨u, hu⟩ := State.storeWord_of_writable s.hx hw hw'
  have hframe := State.storeWord_frame hu
  have hwrote := State.storeWord_wrote hu hm
  simp only [State.hx, hiByte_wordOf, loByte_wordOf] at hframe hwrote
  refine ⟨{ u with ccr := s.ccr.afterMove16 s.hx }.advance 2, ?_, ?_, hwrote.congr rfl⟩
  · rw [execSthx, hu]
    rfl
  · rw [State.advance_eq, Ccr.afterMove16_eq_moved16, State.hx_toNat, hframe]
    rfl

/-- Settles O28: STA and STX are register stores, STHX a 16-bit store of H:X. -/
theorem storeResult : Obligations.StoreResult :=
  ⟨fun _ s hm hw => ⟨storeReg_result s.a hm hw, storeReg_result s.x hm hw⟩,
    fun _ _ hm hw hw' => execSthx_result hm hw hw'⟩

/-! ## Clears -/

/-- V = 0, N = 0, Z = 1 are the flags of a move of zero. -/
theorem Ccr.afterClear_eq_afterMove (f : Ccr) : f.afterClear = f.afterMove 0x00 := rfl

/-- CLR of memory is the store of a zero: it does not read the byte. -/
theorem execClr_eq_storeReg (m : MemRef) (s : State) : execClr m s = outcome (storeReg 0x00 m s) := by
  rw [execClr, Ccr.afterClear_eq_afterMove, storeReg]

/-- The flags and PC after CLRA, CLRX and CLRH, whose register is cleared in `t`. -/
theorem State.afterClear_advance (t : State) (f : Ccr) (len : Nat) :
    { t with ccr := f.afterClear }.advance len = { t with ccr := moved8 f 0, pc := nextPc t len } := by
  rw [State.advance_eq, Ccr.afterClear_eq_afterMove, Ccr.afterMove_eq_moved8]
  rfl

/-- Settles O29: CLR of memory as a store of zero, the others by their flags and PC. -/
theorem clearResult : Obligations.ClearResult := by
  refine ⟨fun m s hm hw => ?_, fun s => ?_, fun s => ?_, fun s => ?_⟩
  · obtain ⟨t, ht, hstate, hwrote⟩ := storeReg_result 0x00 hm hw
    exact ⟨t, (execClr_eq_storeReg m s).trans ht, hstate, hwrote⟩
  · exact congrArg Host.Outcome.next (State.afterClear_advance { s with a := 0x00 } s.ccr 1)
  · exact congrArg Host.Outcome.next (State.afterClear_advance { s with x := 0x00 } s.ccr 1)
  · exact congrArg Host.Outcome.next (State.afterClear_advance { s with h := 0x00 } s.ccr 1)

/-! ## Moves -/

/-- A store after accesses that changed only the devices: its frame, all accesses listed. -/
theorem State.store_frame_after_accesses {s u : State} {l : List Access} {a : Word} {v : Byte}
    (h : (s.setIo (s.ioAfter l)).store a v = .ok u) :
    u = { s with mem := u.mem, io := s.ioAfter (l ++ [.write a v]) } := by
  rw [← State.ioAfter_append (s := s) (t := s.setIo (s.ioAfter l)) rfl rfl rfl]
  exact State.store_frame h

/-- A store after accesses that changed only the devices: its bytes. -/
theorem State.store_wrote_after_accesses {s u : State} {io : Nat} {a : Word} {v : Byte}
    (h : (s.setIo io).store a v = .ok u) (hm : s.mem.wf = true) : s.Wrote u [(a, v)] :=
  (State.Wrote.nil (t := s.setIo io) rfl).cons rfl h hm

/-- MOV in any form: the accesses of the source, then the one write; H:X from before the instruction. -/
theorem execMov_result {f : MovForm} {s : State} {v : Byte} (hm : s.mem.wf = true) (hv : f.source s = .ok v)
    (hw : s.writable (f.target s) = true) :
    ∃ t, execMov f s = .next t ∧
      t = { s with
        mem := t.mem, io := s.ioAfter (f.reads s ++ [.write (f.target s) v]),
        h := BitVec.ofNat 8 ((hxNat s + f.increments.toNat) / 256),
        x := BitVec.ofNat 8 ((hxNat s + f.increments.toNat) % 256), ccr := moved8 s.ccr v.toNat,
        pc := nextPc s f.length } ∧
      s.Wrote t [(f.target s, v)] := by
  obtain ⟨u, hu⟩ := State.store_of_writable (s := s.setIo (s.ioAfter (f.reads s))) v hw
  refine ⟨{ u.bumpHX f.increments with ccr := s.ccr.afterMove v }.advance f.length, ?_, ?_,
    (State.store_wrote_after_accesses hu hm).congr (State.bumpHX_mem u f.increments)⟩
  · rw [execMov, hv, Result.ok_bind]
    exact outcome_eq_next.2 (Result.bind_eq_ok.2 ⟨u, hu, rfl⟩)
  · rw [State.advance_eq, Ccr.afterMove_eq_moved8, State.bumpHX_eq, State.store_frame_after_accesses hu]
    rfl

/-- Settles O30: source, target and increment of each form by its definition, then the one law for all forms. -/
theorem movResult : Obligations.MovResult :=
  ⟨fun _ _ _ => ⟨rfl, rfl, rfl, rfl⟩, fun _ _ => ⟨rfl, rfl, rfl, rfl⟩, fun _ _ _ => ⟨rfl, rfl, rfl, rfl⟩,
    fun _ _ => ⟨rfl, rfl, rfl, rfl⟩, fun _ _ _ hm hv hw => execMov_result hm hv hw⟩

/-! ## Loads -/

/-- An instruction with a source operand, by the operand's value. -/
theorem withSrc_of_value {o : Src} {s : State} {v : Byte} (f : Byte → State) (hv : o.value s = .ok v) :
    outcome (withSrc o s f) =
      .next { f v with io := s.ioAfter (o.accesses s), pc := nextPc (f v) o.length } := by
  refine outcome_eq_next.2 (withSrc_eq_ok.2 ⟨v, hv, ?_⟩)
  rw [State.advance_eq]
  rfl

theorem execLda_of_value {o : Src} {s : State} {v : Byte} (hv : o.value s = .ok v) :
    execLda o s = .next { s with
      io := s.ioAfter (o.accesses s), a := v, ccr := moved8 s.ccr v.toNat, pc := nextPc s o.length } := by
  rw [execLda, withSrc_of_value _ hv, Ccr.afterMove_eq_moved8]
  rfl

theorem execLdx_of_value {o : Src} {s : State} {v : Byte} (hv : o.value s = .ok v) :
    execLdx o s = .next { s with
      io := s.ioAfter (o.accesses s), x := v, ccr := moved8 s.ccr v.toNat, pc := nextPc s o.length } := by
  rw [execLdx, withSrc_of_value _ hv, Ccr.afterMove_eq_moved8]
  rfl

theorem execLdhx_of_value {w : WideSrc} {s : State} {v : Word} (hv : w.value s = .ok v) :
    execLdhx w s = .next { s with
      io := s.ioAfter w.accesses,
      h := BitVec.ofNat 8 (v.toNat / 256), x := BitVec.ofNat 8 (v.toNat % 256),
      ccr := moved16 s.ccr v.toNat, pc := nextPc s w.length } := by
  rw [execLdhx, hv, Result.ok_bind, outcome_ok, State.setHX_eq, Ccr.afterMove16_eq_moved16, State.advance_eq]
  rfl

/-- Settles O27: each load by the value of its operand. -/
theorem loadResult : Obligations.LoadResult :=
  ⟨fun _ _ _ hv => ⟨execLda_of_value hv, execLdx_of_value hv⟩, fun _ _ _ hv => execLdhx_of_value hv⟩

end Sys2Proof.Machine

/-! The proofs about 41_transfer_stack.md: AIS and AIX (O34), the pushes and pulls (O35), the transfers (O31),
TAP (O32) and RSP (O33). Each next state is written out in numbers. -/

namespace Sys2Proof.Machine

open Sys2Proof Sys2Proof.Claims

/-! ## Pointer adjustment -/

/-- A word plus a signed byte, as a number modulo 2^16. -/
theorem add_sext16_toNat (w : Word) (b : Byte) :
    ((w + sext16 b).toNat : Int) = (w.toNat + b.toInt) % 65536 := by
  have hw : w + sext16 b = BitVec.ofInt 16 (w.toNat + b.toInt) := by
    rw [sext16_eq_ofInt, BitVec.ofInt_add, BitVec.ofInt_natCast, BitVec.ofNat_toNat, BitVec.setWidth_eq]
  rw [hw, BitVec.toNat_ofInt]
  omega

/-- H:X as a number after it is set. -/
theorem hxNat_setHX (s : State) (w : Word) : hxNat (s.setHX w) = w.toNat := by
  rw [hxNat, ← State.hx_toNat, State.hx_setHX]

/-- Settles O34: SP, or H:X as one word, by `add_sext16_toNat`. -/
theorem pointerAdjustResult : Obligations.PointerAdjustResult := by
  refine ⟨fun _ => decodes_of_encodesTo ⟨rfl, rfl⟩, fun _ => decodes_of_encodesTo ⟨rfl, rfl⟩,
    fun ii s => ⟨_, rfl, ?_, add_sext16_toNat s.sp ii⟩, fun ii s => ⟨_, rfl, ?_, ?_⟩⟩
  · rw [State.advance_eq]
    rfl
  · rw [State.advance_eq]
    rfl
  · calc ((hxNat ((s.setHX (s.hx + sext16 ii)).advance 2) : Nat) : Int)
        = ((s.hx + sext16 ii).toNat : Int) := congrArg Nat.cast (hxNat_setHX s _)
      _ = (hxNat s + ii.toInt) % 65536 := by rw [add_sext16_toNat, State.hx_toNat, hxNat]

/-! ## Pushes and pulls -/

/-- A push instruction: the byte written at SP, which goes down by one; no flag. -/
theorem pushReg_result {s : State} (v : Byte) (hm : s.mem.wf = true) (hw : s.writable s.sp = true) :
    ∃ t, outcome (pushReg v s) = .next t ∧
      t = { s with mem := t.mem, io := s.ioAfter [.write s.sp v], sp := s.sp - 1, pc := nextPc s 1 } ∧
      s.Wrote t [(s.sp, v)] := by
  obtain ⟨u, hu⟩ := State.push_of_writable v hw
  refine ⟨u.advance 1, ?_, ?_, (State.push_wrote hu hm).congr rfl⟩
  · rw [pushReg, hu]
    rfl
  · rw [State.advance_eq, State.push_frame hu]
    rfl

/-- The pull of the byte loaded from above SP. -/
theorem State.pull_of_load {s : State} {v : Byte} (hv : s.load (s.sp + 1) = .ok v) :
    s.pull = .ok (v, { s with io := s.ioAfter [.read (s.sp + 1)], sp := s.sp + 1 }) :=
  State.pull_eq_ok.2 ⟨hv, rfl⟩

theorem execPula_of_load {s : State} {v : Byte} (hv : s.load (s.sp + 1) = .ok v) :
    execPula s = .next { s with
      io := s.ioAfter [.read (s.sp + 1)], a := v, sp := s.sp + 1, pc := nextPc s 1 } := by
  rw [execPula, State.pull_of_load hv, Result.ok_bind, outcome_ok, State.advance_eq]
  rfl

theorem execPulh_of_load {s : State} {v : Byte} (hv : s.load (s.sp + 1) = .ok v) :
    execPulh s = .next { s with
      io := s.ioAfter [.read (s.sp + 1)], h := v, sp := s.sp + 1, pc := nextPc s 1 } := by
  rw [execPulh, State.pull_of_load hv, Result.ok_bind, outcome_ok, State.advance_eq]
  rfl

theorem execPulx_of_load {s : State} {v : Byte} (hv : s.load (s.sp + 1) = .ok v) :
    execPulx s = .next { s with
      io := s.ioAfter [.read (s.sp + 1)], x := v, sp := s.sp + 1, pc := nextPc s 1 } := by
  rw [execPulx, State.pull_of_load hv, Result.ok_bind, outcome_ok, State.advance_eq]
  rfl

/-- Settles O35: the pushes differ in the byte only, the pulls in the register loaded. -/
theorem stackResult : Obligations.StackResult := by
  refine ⟨?_, ?_, ?_, ?_, ?_, ?_,
    fun s hm hw => ⟨pushReg_result s.a hm hw, pushReg_result s.h hm hw, pushReg_result s.x hm hw⟩,
    fun _ _ hv => ⟨execPula_of_load hv, execPulh_of_load hv, execPulx_of_load hv⟩⟩
  all_goals exact decodes_of_encodesTo ⟨rfl, rfl⟩

/-! ## Transfers -/

/-- The CCR as a byte, from the weights of its bits (10_state.md R27). -/
theorem Ccr.toByte_eq_ofNat (f : Ccr) :
    f.toByte = BitVec.ofNat 8 (128 * f.v.toNat + 64 + 32 + 16 * f.h.toNat + 8 * f.i.toNat + 4 * f.n.toNat +
      2 * f.z.toNat + f.c.toNat) := by
  rcases f with ⟨v, h, i, n, z, c⟩
  cases v <;> cases h <;> cases i <;> cases n <;> cases z <;> cases c <;> rfl

theorem execTax_eq (s : State) : execTax s = .next { s with x := s.a, pc := nextPc s 1 } :=
  congrArg Host.Outcome.next (State.advance_eq { s with x := s.a } 1)

theorem execTxa_eq (s : State) : execTxa s = .next { s with a := s.x, pc := nextPc s 1 } :=
  congrArg Host.Outcome.next (State.advance_eq { s with a := s.x } 1)

theorem execTpa_eq (s : State) :
    execTpa s = .next { s with a := s.ccr.toByte, pc := nextPc s 1 } :=
  congrArg Host.Outcome.next (State.advance_eq { s with a := s.ccr.toByte } 1)

/-- H:X is SP + 1, whose carry out of bit 15 is lost with the high byte's. -/
theorem execTsx_eq (s : State) :
    execTsx s = .next { s with
      h := BitVec.ofNat 8 ((s.sp.toNat + 1) / 256), x := BitVec.ofNat 8 ((s.sp.toNat + 1) % 256),
      pc := nextPc s 1 } := by
  have hsp : s.sp + 1 = BitVec.ofNat 16 (s.sp.toNat + 1) := by
    rw [BitVec.ofNat_add, BitVec.ofNat_toNat, BitVec.setWidth_eq]
    rfl
  rw [execTsx, State.advance_eq, State.setHX, hsp, hiByte_ofNat, loByte_ofNat]
  rfl

/-- H:X less one is, modulo 2^16, its sum with 65535. -/
theorem State.hx_sub_one (s : State) : s.hx - 1 = BitVec.ofNat 16 (hxNat s + 65535) := by
  have hneg : (-1 : Word) = BitVec.ofNat 16 65535 := by decide
  rw [State.hx, wordOf_eq_ofNat, BitVec.sub_eq_add_neg, hneg, ← BitVec.ofNat_add, hxNat]

theorem execTxs_eq (s : State) :
    execTxs s = .next { s with sp := BitVec.ofNat 16 (hxNat s + 65535), pc := nextPc s 1 } := by
  rw [← State.hx_sub_one]
  exact congrArg Host.Outcome.next (State.advance_eq { s with sp := s.hx - 1 } 1)

/-- Settles O31: TAX and TXA copy a byte, TPA gives the CCR's, TSX and TXS convert between SP and H:X. -/
theorem transferResult : Obligations.TransferResult := by
  refine ⟨?_, ?_, ?_, ?_, ?_, fun s => ⟨execTax_eq s, ?tpa, execTsx_eq s, execTxa_eq s, execTxs_eq s⟩⟩
  case tpa =>
    rw [← Ccr.toByte_eq_ofNat]
    exact execTpa_eq s
  all_goals exact decodes_of_encodesTo ⟨rfl, rfl⟩

/-! ## TAP -/

theorem execTap_eq (s : State) :
    execTap s = .next { s with ccr := Ccr.ofByte s.a, pc := nextPc s 1 } :=
  congrArg Host.Outcome.next (State.advance_eq { s with ccr := Ccr.ofByte s.a } 1)

/-- A byte through the CCR comes back with bits 6 and 5 set (10_state.md R27). -/
theorem Ccr.toByte_ofByte (b : Byte) : (Ccr.ofByte b).toByte = b ||| 0x60 := by
  apply BitVec.eq_of_getLsbD_eq
  intro k hk
  simp only [Ccr.toByte, Ccr.ofByte, BitVec.getLsbD_append, BitVec.getLsbD_or]
  interval_cases k <;> simp

/-- Settles O32: the flags are bits of A, and TPA returns the byte they came from. -/
theorem tapResult : Obligations.TapResult := by
  refine ⟨execTap_eq, fun s t ht => ?_⟩
  obtain rfl := Host.Outcome.next.inj ((execTap_eq s).symm.trans ht)
  rw [← Ccr.toByte_ofByte]
  exact execTpa_eq _

/-! ## RSP -/

/-- The low byte of SP becomes $FF, the high byte stays. -/
theorem wordOf_hiByte_ff (w : Word) :
    wordOf (hiByte w) 0xFF = BitVec.ofNat 16 (256 * (w.toNat / 256) + 255) := by
  rw [wordOf_eq_ofNat, hiByte_toNat]
  rfl

theorem execRsp_eq (s : State) :
    execRsp s = .next { s with
      sp := if s.params.rspClearsSph then 0x00FF else wordOf (hiByte s.sp) 0xFF, pc := nextPc s 1 } :=
  congrArg Host.Outcome.next (State.advance_eq
    { s with sp := if s.params.rspClearsSph then 0x00FF else wordOf (hiByte s.sp) 0xFF } 1)

/-- Settles O33, by the parameter. -/
theorem rspResult : Obligations.RspResult := by
  refine ⟨fun s hp => (execRsp_eq s).trans ?_, fun s hp => (execRsp_eq s).trans ?_⟩
  · rw [if_pos hp]
  · rw [if_neg (Bool.eq_false_iff.1 hp), wordOf_hiByte_ff]

end Sys2Proof.Machine

/-! The proofs about 42_arithmetic.md: sums (O36), differences (O37), NEG, INC, DEC and COM (O38), MUL (O40), DIV
(O41) and DAA (O42, O43). The model computes with bytes and sign bits, the statements with numbers; each part
says once that the two agree. -/

namespace Sys2Proof.Machine

open Sys2Proof Sys2Proof.Claims

/-! ## Two's-complement overflow (42_arithmetic.md R168) -/

/-- A number less than the modulus away from zero is reduced by adding or taking away the modulus at most once. -/
theorem bmod_cases {k : Int} {n : Nat} (hlow : -n ≤ k) (hhigh : k < n) :
    k.bmod n = k ∨ k.bmod n = k + n ∨ k.bmod n = k - n := by
  rcases lt_or_ge (k * 2) (-n) with h | h
  · rw [← Int.add_bmod_right, Int.bmod_eq_of_le_mul_two (by omega) (by omega)]
    exact .inr (.inl rfl)
  rcases lt_or_ge (k * 2) n with h' | h'
  · exact .inl (Int.bmod_eq_of_le_mul_two h h')
  · rw [← Int.sub_bmod_right, Int.bmod_eq_of_le_mul_two (by omega) (by omega)]
    exact .inr (.inr rfl)

/-- Two terms of one sign and a sum of the other, or a sum with a carry in: the exact sum does not fit. -/
theorem signs_eq_outside {w : Nat} {x y r : BitVec (w + 1)} {k : Int}
    (hk : k = x.toInt + y.toInt ∨ k = x.toInt + y.toInt + 1) (hr : r = BitVec.ofInt (w + 1) k) :
    (x.msb && y.msb && !r.msb || !x.msb && !y.msb && r.msb) = decide (k < -2 ^ w ∨ 2 ^ w ≤ k) := by
  have hx : -2 ^ w ≤ x.toInt ∧ x.toInt < 2 ^ w := ⟨BitVec.le_toInt x, BitVec.toInt_lt⟩
  have hy : -2 ^ w ≤ y.toInt ∧ y.toInt < 2 ^ w := ⟨BitVec.le_toInt y, BitVec.toInt_lt⟩
  have hl : -2 ^ w ≤ r.toInt ∧ r.toInt < 2 ^ w := ⟨BitVec.le_toInt r, BitVec.toInt_lt⟩
  have hm : ((2 ^ (w + 1) : Nat) : Int) = 2 * 2 ^ w := by push_cast; ring
  have hwrap := bmod_cases (k := k) (n := 2 ^ (w + 1)) (by omega) (by omega)
  rw [← BitVec.toInt_ofInt, ← hr, hm] at hwrap
  rw [Bool.eq_iff_iff]
  simp only [BitVec.msb_eq_toInt, Bool.or_eq_true, Bool.and_eq_true, Bool.not_eq_true', decide_eq_true_eq,
    decide_eq_false_iff_not]
  omega

/-- The complement has the other sign, so that a difference is a sum with a carry in. -/
theorem toInt_complement {w : Nat} (m : BitVec (w + 1)) : (~~~m).toInt = -1 - m.toInt := by
  have := m.isLt
  rw [BitVec.toInt_eq_toNat_cond, BitVec.toInt_eq_toNat_cond, BitVec.toNat_not]
  split <;> split <;> omega

/-- Two terms of different signs and a difference of the other sign than the first: the exact difference does not
fit. -/
theorem signs_eq_outside_sub {w : Nat} {x m r : BitVec (w + 1)} {k : Int}
    (hk : k = x.toInt - m.toInt ∨ k = x.toInt - m.toInt - 1) (hr : r = BitVec.ofInt (w + 1) k) :
    (x.msb && !m.msb && !r.msb || !x.msb && m.msb && r.msb) = decide (k < -2 ^ w ∨ 2 ^ w ≤ k) := by
  have hk' : k = x.toInt + (~~~m).toInt ∨ k = x.toInt + (~~~m).toInt + 1 := by
    rw [toInt_complement]
    omega
  simpa only [BitVec.msb_not, Nat.zero_lt_succ, decide_true, Bool.true_and, Bool.not_not] using
    signs_eq_outside hk' hr

theorem add8_overflow (a m : Byte) (cin : Bool) :
    (add8 a m cin).overflow = outside8 (a.toInt + m.toInt + cin.toNat) := by
  refine signs_eq_outside (w := 7) (by cases cin <;> simp) ?_
  simp [BitVec.ofInt_add, BitVec.ofNat_add]

theorem sub8_overflow (a m : Byte) (bin : Bool) :
    (sub8 a m bin).overflow = outside8 (a.toInt - m.toInt - bin.toNat) := by
  refine signs_eq_outside_sub (w := 7) (by cases bin <;> simp) ?_
  simp [BitVec.ofInt_add, sub_eq_add_neg, BitVec.ofInt_neg]

theorem sub16_overflow (a m : Word) : (sub16 a m).overflow = outside16 (a.toInt - m.toInt) := by
  refine signs_eq_outside_sub (w := 15) (.inl rfl) ?_
  simp [BitVec.ofInt_add, sub_eq_add_neg, BitVec.ofInt_neg]

/-! ## Bytes and flags in the numbers of the statements -/

theorem toNat_ofNat8 {n : Nat} (h : n < 256) : (BitVec.ofNat 8 n).toNat = n := Nat.mod_eq_of_lt h

theorem Ccr.setNZ8_eq_nz8 (f : Ccr) (r : Byte) : f.setNZ8 r = nz8 f r.toNat := by
  have hz : r = 0 ↔ r.toNat = 0 := byte_eq_zero_iff r
  simp only [Ccr.setNZ8, nz8, msb_eq_decide_le, hz]

theorem Ccr.setNZ16_eq_nz16 (f : Ccr) (r : Word) : f.setNZ16 r = nz16 f r.toNat := by
  have hz : r = 0 ↔ r.toNat = 0 := word_eq_zero_iff r
  simp only [Ccr.setNZ16, nz16, BitVec.msb_eq_decide, Nat.reduceSub, Nat.reducePow, hz]

/-! ## Sums -/

theorem add8_r_toNat (a m : Byte) (cin : Bool) :
    (add8 a m cin).r.toNat = (a.toNat + m.toNat + cin.toNat) % 256 := rfl

theorem Ccr.afterAdd_add8 (f : Ccr) (a m : Byte) (cin : Bool) :
    f.afterAdd (add8 a m cin) = added f a m cin.toNat := by
  rw [Ccr.afterAdd, Ccr.setNZ8_eq_nz8, add8_overflow, add8_r_toNat]
  rfl

theorem execAdd_of_value {o : Src} {s : State} {v : Byte} (hv : o.value s = .ok v) :
    execAdd o s = .next { s with
      io := s.ioAfter (o.accesses s), a := BitVec.ofNat 8 (s.a.toNat + v.toNat),
      ccr := added s.ccr s.a v 0, pc := nextPc s o.length } := by
  rw [execAdd, withSrc_of_value _ hv, Ccr.afterAdd_add8]
  rfl

theorem execAdc_of_value {o : Src} {s : State} {v : Byte} (hv : o.value s = .ok v) :
    execAdc o s = .next { s with
      io := s.ioAfter (o.accesses s), a := BitVec.ofNat 8 (s.a.toNat + v.toNat + s.ccr.c.toNat),
      ccr := added s.ccr s.a v s.ccr.c.toNat, pc := nextPc s o.length } := by
  rw [execAdc, withSrc_of_value _ hv, Ccr.afterAdd_add8]
  rfl

/-- Settles O36: both add a byte and a carry, which for ADD is 0. -/
theorem addResult : Obligations.AddResult :=
  fun _ _ _ hv => ⟨execAdd_of_value hv, execAdc_of_value hv⟩

/-! ## Differences -/

theorem sub8_r_toNat (a m : Byte) (bin : Bool) : (sub8 a m bin).r.toNat = difference a m bin.toNat := by
  have := bin.toNat_le
  have := m.isLt
  simp only [sub8, difference, BitVec.toNat_ofInt]
  omega

theorem sub8_r (a m : Byte) (bin : Bool) : (sub8 a m bin).r = BitVec.ofNat 8 (difference a m bin.toNat) := by
  rw [← sub8_r_toNat, BitVec.ofNat_toNat, BitVec.setWidth_eq]

theorem sub8_carry (a m : Byte) (bin : Bool) :
    (sub8 a m bin).carry = decide (a.toNat < m.toNat + bin.toNat) := by
  simp only [sub8, decide_eq_decide]
  omega

theorem sub16_r_toNat (a m : Word) : (sub16 a m).r.toNat = (a.toNat + 65536 - m.toNat) % 65536 := by
  have := m.isLt
  simp only [sub16, BitVec.toNat_ofInt]
  omega

theorem sub16_carry (a m : Word) : (sub16 a m).carry = decide (a.toNat < m.toNat) := by
  simp only [sub16, decide_eq_decide]
  omega

theorem Ccr.afterSub_sub8 (f : Ccr) (a m : Byte) (bin : Bool) :
    f.afterSub (sub8 a m bin) = subtracted f a m bin.toNat := by
  rw [Ccr.afterSub, Ccr.setNZ8_eq_nz8, sub8_overflow, sub8_carry, sub8_r_toNat, subtracted]

theorem Ccr.afterSub16_sub16 (f : Ccr) (a m : Word) :
    f.afterSub16 (sub16 a m) = nz16 { f with
      v := outside16 (a.toInt - m.toInt), c := decide (a.toNat < m.toNat) }
      ((a.toNat + 65536 - m.toNat) % 65536) := by
  rw [Ccr.afterSub16, Ccr.setNZ16_eq_nz16, sub16_overflow, sub16_carry, sub16_r_toNat]

theorem execSub_of_value {o : Src} {s : State} {v : Byte} (hv : o.value s = .ok v) :
    execSub o s = .next { s with
      io := s.ioAfter (o.accesses s), a := BitVec.ofNat 8 (difference s.a v 0),
      ccr := subtracted s.ccr s.a v 0, pc := nextPc s o.length } := by
  rw [execSub, withSrc_of_value _ hv, Ccr.afterSub_sub8, sub8_r]
  rfl

theorem execSbc_of_value {o : Src} {s : State} {v : Byte} (hv : o.value s = .ok v) :
    execSbc o s = .next { s with
      io := s.ioAfter (o.accesses s), a := BitVec.ofNat 8 (difference s.a v s.ccr.c.toNat),
      ccr := subtracted s.ccr s.a v s.ccr.c.toNat, pc := nextPc s o.length } := by
  rw [execSbc, withSrc_of_value _ hv, Ccr.afterSub_sub8, sub8_r]
  rfl

theorem execCmp_of_value {o : Src} {s : State} {v : Byte} (hv : o.value s = .ok v) :
    execCmp o s = .next { s with
      io := s.ioAfter (o.accesses s), ccr := subtracted s.ccr s.a v 0, pc := nextPc s o.length } := by
  rw [execCmp, withSrc_of_value _ hv, Ccr.afterSub_sub8]
  rfl

theorem execCpx_of_value {o : Src} {s : State} {v : Byte} (hv : o.value s = .ok v) :
    execCpx o s = .next { s with
      io := s.ioAfter (o.accesses s), ccr := subtracted s.ccr s.x v 0, pc := nextPc s o.length } := by
  rw [execCpx, withSrc_of_value _ hv, Ccr.afterSub_sub8]
  rfl

theorem execCphx_of_value {w : WideSrc} {s : State} {v : Word} (hv : w.value s = .ok v) :
    execCphx w s = .next { s with
      io := s.ioAfter w.accesses,
      ccr := nz16 { s.ccr with
        v := outside16 (s.hx.toInt - v.toInt), c := decide (hxNat s < v.toNat) }
        ((hxNat s + 65536 - v.toNat) % 65536),
      pc := nextPc s w.length } := by
  rw [execCphx, hv, Result.ok_bind, outcome_ok, Ccr.afterSub16_sub16, State.hx_toNat, State.advance_eq]
  rfl

/-- Settles O37: all subtract a byte and a borrow, CPHX a word; SUB and SBC keep the difference. -/
theorem subtractResult : Obligations.SubtractResult :=
  ⟨fun _ _ _ hv => ⟨execSub_of_value hv, execSbc_of_value hv, execCmp_of_value hv, execCpx_of_value hv⟩,
    fun _ _ _ hv => execCphx_of_value hv⟩

/-! ## Read-modify-write -/

/-- A one-byte operation on memory: the address read, then written, and the flags of the operation. -/
theorem onMem_result {op : Ccr → Byte → Byte × Ccr} {m : MemRef} {s : State} {v : Byte}
    (hm : s.mem.wf = true) (hv : s.load (m.ea s) = .ok v) (hw : s.writable (m.ea s) = true) :
    ∃ t, outcome (onMem op m s) = .next t ∧
      t = { s with
        mem := t.mem, io := s.ioAfter [.read (m.ea s), .write (m.ea s) (op s.ccr v).1],
        ccr := (op s.ccr v).2, pc := nextPc s m.length } ∧
      s.Wrote t [(m.ea s, (op s.ccr v).1)] := by
  obtain ⟨u, hu⟩ := State.store_of_writable (s := s.afterRead (m.ea s)) (op s.ccr v).1 hw
  refine ⟨{ u with ccr := (op s.ccr v).2 }.advance m.length, ?_, ?_,
    (State.store_wrote_after_accesses hu hm).congr rfl⟩
  · rw [onMem, hv, Result.ok_bind, hu]
    rfl
  · rw [State.advance_eq, State.store_frame_after_accesses hu]
    rfl

/-- The three shapes of an instruction whose one-byte operation `f` is `op` in numbers. -/
theorem modifiesAs_of {onMemory : MemRef → Instr} {onAcc onIndex : Instr} {op : ByteOp}
    {f : Ccr → Byte → Byte × Ccr} (hmem : ∀ m s, exec (onMemory m) s = outcome (onMem f m s))
    (hacc : ∀ s, exec onAcc s = .next (onA f s)) (hindex : ∀ s, exec onIndex s = .next (onX f s))
    (hop : ∀ flags v, f flags v = (BitVec.ofNat 8 (op flags v.toNat).1, (op flags v.toNat).2)) :
    ModifiesAs onMemory onAcc onIndex op := by
  refine ⟨fun s => ?_, fun s => ?_, fun m s v hm hv hw => ?_⟩
  · rw [hacc, onA, hop, State.advance_eq]
    rfl
  · rw [hindex, onX, hop, State.advance_eq]
    rfl
  · have h := onMem_result (op := f) hm hv hw
    rwa [← hmem, hop] at h

/-- N and Z of a byte given by its number. -/
theorem Ccr.setNZ8_ofNat (f : Ccr) {n : Nat} (h : n < 256) : f.setNZ8 (BitVec.ofNat 8 n) = nz8 f n := by
  rw [Ccr.setNZ8_eq_nz8, toNat_ofNat8 h]

theorem negByte_eq (f : Ccr) (v : Byte) :
    negByte f v = (BitVec.ofNat 8 ((256 - v.toNat) % 256),
      nz8 { f with v := decide (v.toNat = 128), c := decide (v.toNat ≠ 0) } ((256 - v.toNat) % 256)) := by
  have hr : 0 - v = BitVec.ofNat 8 ((256 - v.toNat) % 256) := by bv_omega
  have hv : 0 - v = 0x80 ↔ v.toNat = 128 := by bv_omega
  have hc : 0 - v ≠ 0 ↔ v.toNat ≠ 0 := by bv_omega
  simp only [negByte, hv, hc]
  rw [hr, Ccr.setNZ8_ofNat _ (by omega)]

theorem incByte_eq (f : Ccr) (v : Byte) :
    incByte f v = (BitVec.ofNat 8 ((v.toNat + 1) % 256),
      nz8 { f with v := decide (v.toNat = 127) } ((v.toNat + 1) % 256)) := by
  have hr : v + 1 = BitVec.ofNat 8 ((v.toNat + 1) % 256) := by bv_omega
  have hv : v = 0x7F ↔ v.toNat = 127 := by bv_omega
  simp only [incByte, hv]
  rw [hr, Ccr.setNZ8_ofNat _ (by omega)]

theorem decByte_eq (f : Ccr) (v : Byte) :
    decByte f v = (BitVec.ofNat 8 ((v.toNat + 255) % 256),
      nz8 { f with v := decide (v.toNat = 128) } ((v.toNat + 255) % 256)) := by
  have hr : v - 1 = BitVec.ofNat 8 ((v.toNat + 255) % 256) := by bv_omega
  have hv : v = 0x80 ↔ v.toNat = 128 := by bv_omega
  simp only [decByte, hv]
  rw [hr, Ccr.setNZ8_ofNat _ (by omega)]

theorem comByte_eq (f : Ccr) (v : Byte) :
    comByte f v = (BitVec.ofNat 8 (255 - v.toNat),
      nz8 { f with v := false, c := true } (255 - v.toNat)) := by
  have hr : v ^^^ 0xFF = BitVec.ofNat 8 (255 - v.toNat) := by
    rw [show (0xFF : Byte) = BitVec.allOnes 8 from rfl, BitVec.xor_allOnes]
    bv_omega
  simp only [comByte]
  rw [hr, Ccr.setNZ8_ofNat _ (by omega)]

/-- Settles O38, by the one-byte operation of each instruction. -/
theorem modifyResult : Obligations.ModifyResult :=
  ⟨modifiesAs_of (fun _ _ => rfl) (fun _ => rfl) (fun _ => rfl) negByte_eq,
    modifiesAs_of (fun _ _ => rfl) (fun _ => rfl) (fun _ => rfl) incByte_eq,
    modifiesAs_of (fun _ _ => rfl) (fun _ => rfl) (fun _ => rfl) decByte_eq,
    modifiesAs_of (fun _ _ => rfl) (fun _ => rfl) (fun _ => rfl) comByte_eq⟩

/-! ## MUL -/

/-- The product of two bytes is a word. -/
theorem byte_mul_byte_lt (x a : Byte) : x.toNat * a.toNat < 65536 :=
  Nat.mul_lt_mul'' x.isLt a.isLt

/-- Settles O40: the bytes of the product, which a word holds. -/
theorem mulResult : Obligations.MulResult := by
  refine ⟨decodes_of_encodesTo ⟨rfl, rfl⟩, fun s => ⟨_, rfl, ?_, ?_⟩⟩
  · rw [State.advance_eq]
    rfl
  · have hp := byte_mul_byte_lt s.x s.a
    simp only [State.advance_x, State.advance_a, hiByte_toNat, loByte_toNat, BitVec.toNat_ofNat]
    omega

/-! ## DIV -/

/-- The quotient of H:A by X overflows, or X is zero, exactly when X does not exceed H. -/
theorem divOverflow_iff (h a x : Byte) :
    (x = 0 ∨ 255 < (h.toNat * 256 + a.toNat) / x.toNat) ↔ x.toNat ≤ h.toNat := by
  have hz : x = 0 ↔ x.toNat = 0 := byte_eq_zero_iff x
  have ha := a.isLt
  rcases Nat.eq_zero_or_pos x.toNat with h0 | hpos
  · simp only [hz, h0, true_or, Nat.zero_le]
  · have hq : 256 ≤ (h.toNat * 256 + a.toNat) / x.toNat ↔ 256 * x.toNat ≤ h.toNat * 256 + a.toNat :=
      Nat.le_div_iff_mul_le hpos
    rw [hz]
    omega

theorem execDiv_of_lt {s : State} (h : s.h.toNat < s.x.toNat) :
    execDiv s = .next { s with
      a := BitVec.ofNat 8 ((s.h.toNat * 256 + s.a.toNat) / s.x.toNat)
      h := BitVec.ofNat 8 ((s.h.toNat * 256 + s.a.toNat) % s.x.toNat)
      ccr := { s.ccr with z := decide ((s.h.toNat * 256 + s.a.toNat) / s.x.toNat = 0), c := false }
      pc := nextPc s 1 } := by
  rw [execDiv, if_neg (mt (divOverflow_iff s.h s.a s.x).1 (Nat.not_le.2 h)), State.advance_eq]
  rfl

theorem execDiv_of_le {s : State} (h : s.x.toNat ≤ s.h.toNat) :
    execDiv s = .next { s with
      a := Config.divOvfA s.draws s.h s.a s.x
      h := Config.divOvfH s.draws s.h s.a s.x
      ccr := { s.ccr with z := Config.divOvfZ s.draws s.h s.a s.x, c := true }
      pc := nextPc s 1 } := by
  rw [execDiv, if_pos ((divOverflow_iff s.h s.a s.x).2 h), State.advance_eq]
  rfl

/-- Settles O41: where X exceeds H, quotient and remainder are bytes. -/
theorem divResult : Obligations.DivResult := by
  intro s
  rcases Nat.lt_or_ge s.h.toNat s.x.toNat with h | h
  · refine ⟨_, execDiv_of_lt h, rfl, fun _ => ?_, fun h' => absurd h (Nat.not_lt.2 h')⟩
    have hq : (s.h.toNat * 256 + s.a.toNat) / s.x.toNat ≤ 255 :=
      Nat.not_lt.1 fun hc => Nat.not_le.2 h ((divOverflow_iff s.h s.a s.x).1 (.inr hc))
    have hr : (s.h.toNat * 256 + s.a.toNat) % s.x.toNat < s.x.toNat := Nat.mod_lt _ (by omega)
    have hx := s.x.isLt
    rw [toNat_ofNat8 (by omega), toNat_ofNat8 (by omega), Nat.div_add_mod']
    exact ⟨by omega, hr, rfl, rfl⟩
  · exact ⟨_, execDiv_of_le h, rfl, fun h' => absurd h' (Nat.not_lt.2 h), fun _ => rfl⟩

/-! ## DAA -/

/-- The printed rows give the table of the statements: each pair of flags leaves its own rows. -/
theorem daaRow_map_eq_daaEntry (a : Byte) (h c : Bool) :
    (daaRow a h c).map (fun row => (row.correction.toNat, row.cAfter)) =
      daaEntry c (a.toNat / 16) h (a.toNat % 16) := by
  have hhi : a.toNat / 16 ≤ 15 := Nat.le_of_lt_succ (Nat.div_lt_of_lt_mul a.isLt)
  have hlo : a.toNat % 16 ≤ 15 := Nat.le_of_lt_succ (Nat.mod_lt _ (by decide))
  rw [daaRow]
  generalize a.toNat / 16 = hi at *
  generalize a.toNat % 16 = lo at *
  cases c <;> cases h
  all_goals
    simp only [daaTable, daaEntry, List.find?_cons, List.find?_nil, beq_true, beq_false, Bool.not_true,
      Bool.not_false, Bool.and_true, Bool.true_and, Bool.and_false, Bool.false_and, decide_true, Nat.zero_le]
    grind

theorem execDaa_of_row {s : State} {row : DaaRow} (h : daaRow s.a s.ccr.h s.ccr.c = some row) :
    execDaa s = .next { s with
      a := s.a + row.correction
      ccr := nz8 { s.ccr with c := row.cAfter, v := Config.daaV s.draws } (s.a + row.correction).toNat
      pc := nextPc s 1 } := by
  simp only [execDaa, h, Ccr.setNZ8_eq_nz8, State.advance_eq]
  rfl

theorem execDaa_of_none {s : State} (h : daaRow s.a s.ccr.h s.ccr.c = none) :
    execDaa s = .next { s with
      a := Config.daaUndefA s.draws s.a s.ccr.h s.ccr.c
      ccr := { s.ccr with
        v := Config.daaV s.draws
        n := Config.daaUndefN s.draws s.a s.ccr.h s.ccr.c
        z := Config.daaUndefZ s.draws s.a s.ccr.h s.ccr.c
        c := Config.daaUndefC s.draws s.a s.ccr.h s.ccr.c }
      pc := nextPc s 1 } := by
  simp only [execDaa, h, State.advance_eq]
  rfl

/-- Settles O42: a row that matches is the statement's entry; where none does, there is no entry. -/
theorem daaResult : Obligations.DaaResult := by
  intro s
  have hentry := daaRow_map_eq_daaEntry s.a s.ccr.h s.ccr.c
  cases hrow : daaRow s.a s.ccr.h s.ccr.c with
  | none =>
    rw [hrow, Option.map_none] at hentry
    exact ⟨_, execDaa_of_none hrow, rfl, fun k c hkc => by simp [← hentry] at hkc⟩
  | some row =>
    rw [hrow, Option.map_some] at hentry
    refine ⟨_, execDaa_of_row hrow, rfl, fun k c hkc => ?_⟩
    obtain ⟨rfl, rfl⟩ : row.correction.toNat = k ∧ row.cAfter = c := by simpa [← hentry] using hkc
    exact ⟨BitVec.toNat_add .., rfl, rfl, rfl⟩

/-! ## Decimal addition -/

/-- For the sum of two decimal bytes and a carry, whose digits sum to `hi` and `lo` and whose high nibbles sum to
`q` with the half carry, the table corrects each digit above 9 by 6: the ones, then the tens with their carry. The
cases are the digit's three ranges: it is decimal, it is not, it carried out of its nibble. -/
theorem daaEntry_of_digit_sums {hi lo q ones : Nat} (hhi : hi ≤ 18) (hlo : lo ≤ 19) (hq : q = hi + lo / 16)
    (hones : ones = if 9 < lo then 1 else 0) :
    daaEntry (decide (15 < q)) (q % 16) (decide (15 < lo)) (lo % 16) =
      some (6 * ones + if 9 < hi + ones then 96 else 0, decide (9 < hi + ones)) := by
  obtain h | h | h : lo ≤ 9 ∨ 10 ≤ lo ∧ lo ≤ 15 ∨ 16 ≤ lo := by omega
  all_goals obtain h' | h' | h' : q ≤ 9 ∨ 10 ≤ q ∧ q ≤ 15 ∨ 16 ≤ q := by omega
  all_goals grind [daaEntry]

/-- The corrected sum is the decimal sum: its digits, and 100 for the carry. -/
theorem corrected_sum_digits {hi lo ones r : Nat} (hhi : hi ≤ 18) (hlo : lo ≤ 19)
    (hones : ones = if 9 < lo then 1 else 0)
    (hr : r = ((16 * hi + lo) % 256 + (6 * ones + if 9 < hi + ones then 96 else 0)) % 256) :
    (r / 16 ≤ 9 ∧ r % 16 ≤ 9) ∧
      10 * (r / 16) + r % 16 + (if 9 < hi + ones then 100 else 0) = 10 * hi + lo := by
  split_ifs at * <;> omega

/-- What DAA does after the binary sum of two decimal bytes and a carry, in any state that holds its byte, half
carry and carry. -/
theorem execDaa_of_digit_sums {hi lo : Nat} {t : State} (hhi : hi ≤ 18) (hlo : lo ≤ 19)
    (ha : t.a.toNat = (16 * hi + lo) % 256) (hh : t.ccr.h = decide (15 < lo))
    (hc : t.ccr.c = decide (255 < 16 * hi + lo)) :
    ∃ u, exec .daa t = .next u ∧ isBcd u.a ∧ bcd u.a + (if u.ccr.c then 100 else 0) = 10 * hi + lo := by
  obtain ⟨u, hu, -, htable⟩ := daaResult t
  have hhigh : t.a.toNat / 16 = (hi + lo / 16) % 16 := by omega
  have hlow : t.a.toNat % 16 = lo % 16 := by omega
  have hcarry : 255 < 16 * hi + lo ↔ 15 < hi + lo / 16 := by omega
  rw [hh, hc, hhigh, hlow, decide_eq_decide.2 hcarry] at htable
  obtain ⟨hua, huc, -⟩ := htable _ _ (daaEntry_of_digit_sums hhi hlo rfl rfl)
  rw [ha] at hua
  obtain ⟨hdigits, hsum⟩ := corrected_sum_digits hhi hlo rfl hua
  refine ⟨u, hu, hdigits, ?_⟩
  simp only [huc, decide_eq_true_eq]
  exact hsum

/-- Settles O43: ADC leaves the binary sum of the bytes with its two carries, from which DAA makes the decimal
sum. -/
theorem daaCorrectsDecimalSums : Obligations.DaaCorrectsDecimalSums := by
  rintro o s v ⟨ha, ha'⟩ ⟨hv, hv'⟩ ho
  have hcin := s.ccr.c.toNat_le
  have hn : s.a.toNat + v.toNat + s.ccr.c.toNat =
      16 * (s.a.toNat / 16 + v.toNat / 16) + (s.a.toNat % 16 + v.toNat % 16 + s.ccr.c.toNat) := by omega
  obtain ⟨u, hu, hbcd, hsum⟩ := execDaa_of_digit_sums (t := { s with
      io := s.ioAfter (o.accesses s), a := BitVec.ofNat 8 (s.a.toNat + v.toNat + s.ccr.c.toNat),
      ccr := added s.ccr s.a v s.ccr.c.toNat, pc := nextPc s o.length })
    (by omega) (by omega) (congrArg (· % 256) hn) rfl (by rw [← hn]; rfl)
  refine ⟨_, u, execAdc_of_value ho, hu, hbcd, hsum.trans ?_⟩
  simp only [bcd]
  omega

end Sys2Proof.Machine

/-! The proofs about 43_logic_shift.md: the logic operations and TST (O44), NSA (O45), shifts and rotates (O39).
The five one-byte operations of the last part are two: a shift to the left and one to the right, each with the bit
that enters, which for LSL and LSR is 0, for ASR bit 7 and for ROL and ROR the C before. -/

namespace Sys2Proof.Machine

open Sys2Proof Sys2Proof.Claims

/-! ## Logic and tests -/

theorem execAnd_of_value {o : Src} {s : State} {v : Byte} (hv : o.value s = .ok v) :
    execAnd o s = .next { s with
      io := s.ioAfter (o.accesses s), a := s.a &&& v, ccr := moved8 s.ccr (s.a.toNat &&& v.toNat),
      pc := nextPc s o.length } := by
  rw [execAnd, withSrc_of_value _ hv, Ccr.afterMove_eq_moved8, BitVec.toNat_and]
  rfl

theorem execOra_of_value {o : Src} {s : State} {v : Byte} (hv : o.value s = .ok v) :
    execOra o s = .next { s with
      io := s.ioAfter (o.accesses s), a := s.a ||| v, ccr := moved8 s.ccr (s.a.toNat ||| v.toNat),
      pc := nextPc s o.length } := by
  rw [execOra, withSrc_of_value _ hv, Ccr.afterMove_eq_moved8, BitVec.toNat_or]
  rfl

theorem execEor_of_value {o : Src} {s : State} {v : Byte} (hv : o.value s = .ok v) :
    execEor o s = .next { s with
      io := s.ioAfter (o.accesses s), a := s.a ^^^ v, ccr := moved8 s.ccr (s.a.toNat ^^^ v.toNat),
      pc := nextPc s o.length } := by
  rw [execEor, withSrc_of_value _ hv, Ccr.afterMove_eq_moved8, BitVec.toNat_xor]
  rfl

theorem execBit_of_value {o : Src} {s : State} {v : Byte} (hv : o.value s = .ok v) :
    execBit o s = .next { s with
      io := s.ioAfter (o.accesses s), ccr := moved8 s.ccr (s.a.toNat &&& v.toNat), pc := nextPc s o.length } := by
  rw [execBit, withSrc_of_value _ hv, Ccr.afterMove_eq_moved8, BitVec.toNat_and]
  rfl

theorem execTst_of_load {m : MemRef} {s : State} {v : Byte} (hv : s.load (m.ea s) = .ok v) :
    execTst m s = .next { s with
      io := s.ioAfter [.read (m.ea s)], ccr := moved8 s.ccr v.toNat, pc := nextPc s m.length } := by
  rw [execTst, hv, Result.ok_bind, outcome_ok, Ccr.afterMove_eq_moved8, State.advance_eq]
  rfl

theorem execTsta_eq (s : State) :
    execTsta s = .next { s with ccr := moved8 s.ccr s.a.toNat, pc := nextPc s 1 } := by
  rw [execTsta, Ccr.afterMove_eq_moved8, State.advance_eq]
  rfl

theorem execTstx_eq (s : State) :
    execTstx s = .next { s with ccr := moved8 s.ccr s.x.toNat, pc := nextPc s 1 } := by
  rw [execTstx, Ccr.afterMove_eq_moved8, State.advance_eq]
  rfl

/-- Settles O44: the logic operations by the value of the operand, TST by the byte read, TSTA and TSTX by the
register. -/
theorem logicAndTestResult : Obligations.LogicAndTestResult :=
  ⟨fun _ _ _ hv => ⟨execAnd_of_value hv, execOra_of_value hv, execEor_of_value hv, execBit_of_value hv⟩,
    fun _ _ _ hv => execTst_of_load hv, execTsta_eq, execTstx_eq⟩

/-! ## NSA -/

/-- The number of a byte whose nibbles have changed places. -/
theorem swapped_nibbles_toNat (a : Byte) :
    (a.extractLsb' 0 4 ++ a.extractLsb' 4 4).toNat = 16 * (a.toNat % 16) + a.toNat / 16 := by
  have hhigh : (a.extractLsb' 4 4).toNat = a.toNat / 16 := by
    have := a.isLt
    rw [BitVec.extractLsb'_toNat, Nat.shiftRight_eq_div_pow]
    omega
  have hlow : (a.extractLsb' 0 4).toNat = a.toNat % 16 := BitVec.extractLsb'_toNat ..
  rw [BitVec.toNat_append, ← Nat.shiftLeft_add_eq_or_of_lt (a.extractLsb' 4 4).isLt, Nat.shiftLeft_eq, hhigh,
    hlow, Nat.mul_comm]

theorem execNsa_eq (s : State) :
    execNsa s = .next { s with a := s.a.extractLsb' 0 4 ++ s.a.extractLsb' 4 4, pc := nextPc s 1 } :=
  congrArg Host.Outcome.next (State.advance_eq _ 1)

/-- Settles O45: the nibbles change places, and change back. -/
theorem nsaResult : Obligations.NsaResult := by
  refine ⟨decodes_of_encodesTo ⟨rfl, rfl⟩, fun s =>
    ⟨_, execNsa_eq s, rfl, swapped_nibbles_toNat s.a, _, execNsa_eq _, BitVec.eq_of_toNat_eq ?_⟩⟩
  rw [swapped_nibbles_toNat, swapped_nibbles_toNat]
  omega

/-! ## Shifts and rotates -/

/-- The flags of a shift from the numbers of its result and of the bit that leaves. -/
theorem Ccr.afterShift_eq_shifted (f : Ccr) {n : Nat} (hn : n < 256) (out : Nat) :
    f.afterShift (BitVec.ofNat 8 n) (decide (out = 1)) = shifted f n out := by
  rw [Ccr.afterShift, Ccr.setNZ8_ofNat _ hn, msb_eq_decide_le, toNat_ofNat8 hn]
  rfl

/-- Bit 7 of a byte as a number. -/
theorem msb_toNat (v : Byte) : v.msb.toNat = v.toNat / 128 := by
  have := v.isLt
  rw [msb_eq_decide_le]
  by_cases h : 128 ≤ v.toNat <;> simp [h] <;> omega

/-- The bit that leaves to the left. -/
theorem msb_eq_decide_div (v : Byte) : v.msb = decide (v.toNat / 128 = 1) := by
  rw [← msb_toNat]
  cases v.msb <;> rfl

/-- The bit that leaves to the right. -/
theorem getLsbD_zero_eq_decide_mod (v : Byte) : v.getLsbD 0 = decide (v.toNat % 2 = 1) :=
  Nat.testBit_zero v.toNat

/-- A bit that enters at the top adds 128, for the byte shifted right leaves bit 7 clear. -/
theorem shiftRight_or_top (v : Byte) (b : Bool) :
    (v >>> 1 ||| if b then 0x80 else 0x00) = BitVec.ofNat 8 (v.toNat / 2 + 128 * b.toNat) := by
  have hbit : (if b then 0x80 else 0x00 : Byte).toNat = 2 ^ 7 * b.toNat := by cases b <;> rfl
  have hclear : v.toNat / 2 < 2 ^ 7 := by omega
  apply BitVec.eq_of_toNat_eq
  rw [BitVec.toNat_or, hbit, BitVec.toNat_ushiftRight, Nat.shiftRight_one, Nat.or_comm,
    ← Nat.two_pow_add_eq_or_of_lt hclear, BitVec.toNat_ofNat, Nat.add_comm, Nat.mod_eq_of_lt]
  have := b.toNat_le
  omega

/-- A bit that enters at the bottom adds 1, for the byte shifted left leaves bit 0 clear. -/
theorem shiftLeft_or_bottom (v : Byte) (b : Bool) :
    (v <<< 1 ||| if b then 0x01 else 0x00) = BitVec.ofNat 8 ((2 * v.toNat) % 256 + b.toNat) := by
  have hbit : (if b then 0x01 else 0x00 : Byte).toNat = b.toNat := by cases b <;> rfl
  have hb : b.toNat < 2 ^ 1 := b.toNat_lt
  have hshift : (v <<< 1).toNat = 2 ^ 1 * (v.toNat % 128) := by
    rw [BitVec.toNat_shiftLeft, Nat.shiftLeft_eq]
    omega
  apply BitVec.eq_of_toNat_eq
  rw [BitVec.toNat_or, hbit, hshift, ← Nat.two_pow_add_eq_or_of_lt hb, BitVec.toNat_ofNat]
  omega

/-- What ASR keeps of the byte. -/
theorem and_bit7_eq_ite (v : Byte) : v &&& 0x80 = if v.msb then 0x80 else 0x00 :=
  BitVec.and_twoPow v 7

/-- A shift to the right into which `b` enters: its result, and its flags with the bit that leaves. -/
theorem shiftRight_result (f : Ccr) (v : Byte) (b : Bool) {r : Byte}
    (hr : r = v >>> 1 ||| if b then 0x80 else 0x00) :
    (r, f.afterShift r (v.getLsbD 0)) = (BitVec.ofNat 8 (v.toNat / 2 + 128 * b.toNat),
      shifted f (v.toNat / 2 + 128 * b.toNat) (v.toNat % 2)) := by
  have := b.toNat_le
  rw [hr, shiftRight_or_top, getLsbD_zero_eq_decide_mod, Ccr.afterShift_eq_shifted _ (by omega)]

/-- A shift to the left into which `b` enters: its result, and its flags with the bit that leaves. -/
theorem shiftLeft_result (f : Ccr) (v : Byte) (b : Bool) {r : Byte}
    (hr : r = v <<< 1 ||| if b then 0x01 else 0x00) :
    (r, f.afterShift r v.msb) = (BitVec.ofNat 8 ((2 * v.toNat) % 256 + b.toNat),
      shifted f ((2 * v.toNat) % 256 + b.toNat) (v.toNat / 128)) := by
  have := b.toNat_le
  rw [hr, shiftLeft_or_bottom, msb_eq_decide_div, Ccr.afterShift_eq_shifted _ (by omega)]

theorem lslByte_eq (f : Ccr) (v : Byte) :
    lslByte f v = (BitVec.ofNat 8 ((2 * v.toNat) % 256), shifted f ((2 * v.toNat) % 256) (v.toNat / 128)) :=
  shiftLeft_result f v false (BitVec.or_zero).symm

theorem lsrByte_eq (f : Ccr) (v : Byte) :
    lsrByte f v = (BitVec.ofNat 8 (v.toNat / 2), shifted f (v.toNat / 2) (v.toNat % 2)) :=
  shiftRight_result f v false (BitVec.or_zero).symm

theorem asrByte_eq (f : Ccr) (v : Byte) :
    asrByte f v = (BitVec.ofNat 8 (v.toNat / 2 + 128 * (v.toNat / 128)),
      shifted f (v.toNat / 2 + 128 * (v.toNat / 128)) (v.toNat % 2)) := by
  rw [← msb_toNat]
  exact shiftRight_result f v v.msb (congrArg (v >>> 1 ||| ·) (and_bit7_eq_ite v))

theorem rolByte_eq (f : Ccr) (v : Byte) :
    rolByte f v = (BitVec.ofNat 8 ((2 * v.toNat) % 256 + f.c.toNat),
      shifted f ((2 * v.toNat) % 256 + f.c.toNat) (v.toNat / 128)) :=
  shiftLeft_result f v f.c rfl

theorem rorByte_eq (f : Ccr) (v : Byte) :
    rorByte f v = (BitVec.ofNat 8 (v.toNat / 2 + 128 * f.c.toNat),
      shifted f (v.toNat / 2 + 128 * f.c.toNat) (v.toNat % 2)) :=
  shiftRight_result f v f.c rfl

/-- Settles O39, by the one-byte operation of each instruction. -/
theorem shiftResult : Obligations.ShiftResult :=
  ⟨modifiesAs_of (fun _ _ => rfl) (fun _ => rfl) (fun _ => rfl) lslByte_eq,
    modifiesAs_of (fun _ _ => rfl) (fun _ => rfl) (fun _ => rfl) lsrByte_eq,
    modifiesAs_of (fun _ _ => rfl) (fun _ => rfl) (fun _ => rfl) asrByte_eq,
    modifiesAs_of (fun _ _ => rfl) (fun _ => rfl) (fun _ => rfl) rolByte_eq,
    modifiesAs_of (fun _ _ => rfl) (fun _ => rfl) (fun _ => rfl) rorByte_eq⟩

end Sys2Proof.Machine

/-! The proofs about 44_bit_ccr.md: the bit writes (O46), the bit branches (O47), the flag instructions and NOP (O48),
and the delay of CLI (O13). BSET and BCLR are one read-modify-write, BRSET and BRCLR one tested branch, each told
apart by the operation on the byte or by the wanted bit. -/

namespace Sys2Proof

open Machine

/-! ## The opcodes that hold a bit number (30_encoding.md R97) -/

/-- The opcode of a place in the map, from its number. -/
theorem opcode_eq_ofNat {hi lo k : Nat} (h : 16 * hi + lo = k) : opcode hi lo = BitVec.ofNat 8 k :=
  congrArg (BitVec.ofNat 8) h

theorem encodesTo_bset (n : Fin 8) (dd : Byte) :
    EncodesTo (.bset n dd) [BitVec.ofNat 8 (0x10 + 2 * n.val), dd] := by
  rw [← opcode_eq_ofNat (hi := 1) (lo := 2 * n.val) (by omega)]
  exact ⟨rfl, rfl⟩

theorem encodesTo_bclr (n : Fin 8) (dd : Byte) :
    EncodesTo (.bclr n dd) [BitVec.ofNat 8 (0x11 + 2 * n.val), dd] := by
  rw [← opcode_eq_ofNat (hi := 1) (lo := 2 * n.val + 1) (by omega)]
  exact ⟨rfl, rfl⟩

theorem encodesTo_brset (n : Fin 8) (dd rr : Byte) :
    EncodesTo (.brset n dd rr) [BitVec.ofNat 8 (2 * n.val), dd, rr] := by
  rw [← opcode_eq_ofNat (hi := 0) (lo := 2 * n.val) (by omega)]
  exact ⟨rfl, rfl⟩

theorem encodesTo_brclr (n : Fin 8) (dd rr : Byte) :
    EncodesTo (.brclr n dd rr) [BitVec.ofNat 8 (2 * n.val + 1), dd, rr] := by
  rw [← opcode_eq_ofNat (hi := 0) (lo := 2 * n.val + 1) (by omega)]
  exact ⟨rfl, rfl⟩

end Sys2Proof

namespace Sys2Proof.Machine

open Sys2Proof Sys2Proof.Claims

/-! ## Bit writes -/

/-- The mask has the one bit. -/
theorem bitMask_getLsbD (n : Fin 8) (k : Nat) : (bitMask n).getLsbD k = decide (k = n.val) := by
  rw [bitMask, ← BitVec.twoPow_eq, BitVec.getLsbD_twoPow, decide_eq_true n.isLt, Bool.true_and]
  exact decide_eq_decide.2 eq_comm

theorem or_bitMask_getLsbD (v : Byte) (n : Fin 8) (k : Nat) :
    (v ||| bitMask n).getLsbD k = (v.getLsbD k || decide (k = n.val)) := by
  rw [BitVec.getLsbD_or, bitMask_getLsbD]

/-- Bounded, for past bit 7 the complement of the mask has no ones either. -/
theorem and_not_bitMask_getLsbD (v : Byte) (n : Fin 8) {k : Nat} (hk : k < 8) :
    (v &&& ~~~bitMask n).getLsbD k = (v.getLsbD k && decide (k ≠ n.val)) := by
  rw [BitVec.getLsbD_and, BitVec.getLsbD_not, bitMask_getLsbD, decide_eq_true hk, Bool.true_and, decide_not]

/-- A read-modify-write of a direct-page byte: the byte read, then written, changed or not, and no flag. -/
theorem modifyDirect_result (f : Byte → Byte) {dd : Byte} {s : State} {v : Byte} (hm : s.mem.wf = true)
    (hv : s.load (zext16 dd) = .ok v) (hw : s.writable (zext16 dd) = true) :
    ∃ t, outcome (modifyDirect f dd s) = .next t ∧
      t = { s with
        mem := t.mem, io := s.ioAfter [.read (zext16 dd), .write (zext16 dd) (f v)], pc := nextPc s 2 } ∧
      s.Wrote t [(zext16 dd, f v)] := by
  obtain ⟨u, hu⟩ := State.store_of_writable (s := s.afterRead (zext16 dd)) (f v) hw
  refine ⟨u.advance 2, ?_, ?_, (State.store_wrote_after_accesses hu hm).congr rfl⟩
  · rw [modifyDirect, hv, Result.ok_bind, hu]
    rfl
  · rw [State.advance_eq, State.store_frame_after_accesses hu]
    rfl

/-- Settles O46: both are `modifyDirect`, by the bits of the byte each writes. -/
theorem bitWriteResult : Obligations.BitWriteResult := by
  refine ⟨fun n dd => decodes_of_encodesTo (encodesTo_bset n dd),
    fun n dd => decodes_of_encodesTo (encodesTo_bclr n dd), fun n dd s v hm hv hw => ⟨?_, ?_⟩⟩
  · obtain ⟨t, ht, hstate, hwrote⟩ := modifyDirect_result (· ||| bitMask n) hm hv hw
    exact ⟨t, _, ht, hstate, hwrote, fun k _ => or_bitMask_getLsbD v n k⟩
  · obtain ⟨t, ht, hstate, hwrote⟩ := modifyDirect_result (· &&& ~~~bitMask n) hm hv hw
    exact ⟨t, _, ht, hstate, hwrote, fun k hk => and_not_bitMask_getLsbD v n hk⟩

/-! ## Bit branches -/

/-- The end of a branch in the numbers of the statements. -/
theorem State.branch_eq (s : State) (len : Nat) (rr : Byte) (taken : Bool) :
    s.branch len rr taken = { s with pc := goesTo s len rr taken } := by
  cases taken with
  | true => exact congrArg (fun w => { s with pc := w }) (State.target_eq_ofInt s len rr)
  | false =>
    have hnext : goesTo s len rr false = s.pc + BitVec.ofNat 16 len := by
      rw [State.next_eq_ofNat, ← BitVec.ofInt_natCast, Int.natCast_add]
      exact congrArg (BitVec.ofInt 16) (Int.add_zero _)
    rw [hnext]
    rfl

/-- BRSET and BRCLR: the byte read, C the tested bit, and the branch where that bit is `want`. -/
theorem testBitBranch_of_load (want : Bool) (n : Fin 8) {dd : Byte} (rr : Byte) {s : State} {v : Byte}
    (hv : s.load (zext16 dd) = .ok v) :
    outcome (testBitBranch want n dd rr s) = .next { s with
      io := s.ioAfter [.read (zext16 dd)],
      ccr := { s.ccr with c := v.toNat.testBit n.val },
      pc := goesTo s 3 rr (v.toNat.testBit n.val == want) } := by
  rw [testBitBranch, hv, Result.ok_bind, outcome_ok, State.branch_eq]
  rfl

/-- Settles O47: both are `testBitBranch`, BRSET wanting a 1 and BRCLR a 0. -/
theorem bitBranchResult : Obligations.BitBranchResult := by
  refine ⟨fun n dd rr => decodes_of_encodesTo (encodesTo_brset n dd rr),
    fun n dd rr => decodes_of_encodesTo (encodesTo_brclr n dd rr), fun n dd rr s v hv => ⟨?_, ?_⟩⟩
  · have h := testBitBranch_of_load true n rr hv
    rwa [beq_true] at h
  · have h := testBitBranch_of_load false n rr hv
    rwa [beq_false] at h

/-! ## Flag instructions -/

theorem execClc_eq (s : State) :
    execClc s = .next { s with ccr := { s.ccr with c := false }, pc := nextPc s 1 } :=
  congrArg Host.Outcome.next (State.advance_eq _ 1)

theorem execSec_eq (s : State) :
    execSec s = .next { s with ccr := { s.ccr with c := true }, pc := nextPc s 1 } :=
  congrArg Host.Outcome.next (State.advance_eq _ 1)

theorem execSei_eq (s : State) :
    execSei s = .next { s with ccr := { s.ccr with i := true }, pc := nextPc s 1 } :=
  congrArg Host.Outcome.next (State.advance_eq _ 1)

theorem execCli_eq (s : State) :
    execCli s = .next { s with ccr := { s.ccr with i := false }, cliDelay := true, pc := nextPc s 1 } :=
  congrArg Host.Outcome.next (State.advance_eq _ 1)

theorem execNop_eq (s : State) : execNop s = .next { s with pc := nextPc s 1 } :=
  congrArg Host.Outcome.next (State.advance_eq s 1)

/-- Settles O48: the bytes of each, and its one flag. -/
theorem flagInstructionResult : Obligations.FlagInstructionResult :=
  ⟨decodes_of_encodesTo ⟨rfl, rfl⟩, decodes_of_encodesTo ⟨rfl, rfl⟩, decodes_of_encodesTo ⟨rfl, rfl⟩,
    decodes_of_encodesTo ⟨rfl, rfl⟩, fun s => ⟨execClc_eq s, execSec_eq s, execSei_eq s, execNop_eq s⟩⟩

/-! ## The delay of CLI (60_exceptions.md R407, R408) -/

theorem State.recognised_of_cliDelay {s : State} (h : s.cliDelay = true) : s.recognised = none := by
  simp only [State.recognised, h, Bool.true_or, if_true]

/-- With no delay and I clear, a low pin is recognised. -/
theorem State.recognised_of_irqPin {s : State} (hdelay : s.cliDelay = false) (hmask : s.ccr.i = false)
    (hpin : s.irqPin = false) : s.recognised = some s.params.vecIrq := by
  simp [State.recognised, hdelay, hmask, hpin]

theorem execute_of_fetch {s : State} {i : Instr} {len : Nat} (h : s.fetch = .ok (.instr i len)) :
    execute s = exec i (s.afterFetch len) := by
  simp only [execute, h]

/-- The boundary after a CLI recognises nothing, so the next instruction executes. -/
theorem executes_after_cli {s t : State} (hx : s.Executes)
    (hf : s.tick.clearDelay.fetch = .ok (.instr .cli 1)) (h : step s = .next t) : t.Executes := by
  rw [step_of_executes hx, execute_of_fetch hf] at h
  obtain ⟨hreset, -, hrun⟩ := hx
  cases h
  exact ⟨hreset, State.recognised_of_cliDelay rfl, hrun⟩

/-- With the delay over, executing at PC sets it again only by CLI: a reset entry clears it too. -/
theorem fetch_eq_cli_of_cliDelay {s t : State} (hdelay : s.cliDelay = false) (h : execute s = .next t)
    (ht : t.cliDelay = true) : s.fetch = .ok (.instr .cli 1) := by
  rcases execute_cases h with ⟨i, len, hf, hx⟩ | ⟨b0, b1, -, -, hr⟩
  · have hi : i = .cli := by
      by_contra hne
      have hkept : t.cliDelay = s.cliDelay := exec_cliDelay (s := s.afterFetch len) hne hx
      cases ht.symm.trans (hkept.trans hdelay)
    have hlen := State.fetch_length hf
    subst hi hlen
    exact hf
  · have hclear : t.cliDelay = false := congrArg State.cliDelay (State.resetEntry_cases hr).2
    cases ht.symm.trans hclear

/-- Settles O13: the delay holds at the boundary after the CLI, and every boundary clears it before the instruction
there. -/
theorem cliDelaysOneInstruction : Obligations.CliDelaysOneInstruction := by
  refine ⟨decodes_of_encodesTo ⟨rfl, rfl⟩, execCli_eq, fun s t hx hf hst => ?_⟩
  have htx : t.Executes := executes_after_cli hx hf hst
  refine ⟨htx, fun u hu => ⟨fun hdelay => ?_, fun hdelay hmask hpin hreset => ?_⟩⟩
  · rw [step_of_executes htx] at hu
    exact fetch_eq_cli_of_cliDelay rfl hu hdelay
  · exact State.boundaryEvent_eq_interrupt.2 ⟨hreset, State.recognised_of_irqPin hdelay hmask hpin⟩

end Sys2Proof.Machine

/-! The proofs about 45_branch.md: the branches on a flag or the pin (O49), the signed branches (O50), both after a
comparison (O51), CBEQ (O52) and DBNZ (O53). Every branch ends in `State.branch`, so each is told by its condition;
a comparison leaves in its flags whether the first operand is less and whether the two are equal, from which the
conditions of the ordering branches follow. -/

namespace Sys2Proof.Machine

open Sys2Proof Sys2Proof.Claims

/-! ## Branches on a condition -/

/-- A branch by its bytes and by the condition its meaning hands to `State.branch`. -/
theorem branchesWhen_of {op : Byte} {mk : Byte → Instr} {condition : State → Bool}
    (hcode : ∀ rr, EncodesTo (mk rr) [op, rr])
    (hexec : ∀ rr s, exec (mk rr) s = .next (s.branch 2 rr (condition s))) : BranchesWhen op mk condition := by
  refine ⟨fun rr => decodes_of_encodesTo (hcode rr), fun rr s => ?_⟩
  rw [hexec, State.branch_eq]

/-- Settles O49: each branch by its condition; BHI's is that neither C nor Z is set. -/
theorem branchResult : Obligations.BranchResult := by
  refine ⟨?_, ?_, ?_, ?_, ?_, ?_, branchesWhen_of (fun _ => ⟨rfl, rfl⟩) fun rr s => ?bhi, ?_, ?_, ?_, ?_, ?_,
    ?_, ?_, ?_, ?_⟩
  case bhi =>
    rw [← Bool.not_or]
    rfl
  all_goals exact branchesWhen_of (fun _ => ⟨rfl, rfl⟩) fun _ _ => rfl

/-- Two flags agree where their exclusive OR is 0. -/
theorem beq_eq_not_bne (a b : Bool) : (a == b) = !(a != b) := (Bool.not_not _).symm

/-- Settles O50: the model's condition is the exclusive OR of N and V, the statement's that they differ or agree. -/
theorem signedBranchResult : Obligations.SignedBranchResult := by
  refine ⟨branchesWhen_of (fun _ => ⟨rfl, rfl⟩) fun rr s => ?bge,
    branchesWhen_of (fun _ => ⟨rfl, rfl⟩) fun _ _ => rfl,
    branchesWhen_of (fun _ => ⟨rfl, rfl⟩) fun rr s => ?bgt,
    branchesWhen_of (fun _ => ⟨rfl, rfl⟩) fun _ _ => rfl⟩
  case bge =>
    rw [beq_eq_not_bne]
    rfl
  case bgt =>
    rw [beq_eq_not_bne, ← Bool.not_or]
    rfl

/-! ## Branches after a comparison -/

/-- The flags of a comparison of `r` with `m`, as signed numbers of `r'` with `m'`: C and Z tell the unsigned order,
N, V and Z the signed one. -/
structure Ccr.Compared (f : Ccr) (r m : Nat) (r' m' : Int) : Prop where
  carry : f.c = decide (r < m)
  zero : f.z = decide (r = m)
  sign : (f.n != f.v) = decide (r' < m')
  signed_eq : r = m ↔ r' = m'

/-- The effect of a branch whose condition is known. -/
theorem exec_of_branchesWhen {op : Byte} {mk : Byte → Instr} {condition : State → Bool}
    (h : BranchesWhen op mk condition) {t : State} {taken : Bool} (hc : condition t = taken) (rr : Byte) :
    exec (mk rr) t = .next { t with pc := goesTo t 2 rr taken } := by
  rw [h.2 rr t, hc]

/-- Less and equal, as flags, decide the other four orders. -/
theorem orders_of_lt_eq {α : Type} [LinearOrder α] {r m : α} {less equal : Bool} (hl : less = decide (r < m))
    (he : equal = decide (r = m)) :
    (!less) = decide (m ≤ r) ∧ (!less && !equal) = decide (m < r) ∧ (less || equal) = decide (r ≤ m) := by
  subst hl he
  refine ⟨?_, ?_, ?_⟩
  · rw [← decide_not, decide_eq_decide, not_lt]
  · rw [← Bool.not_or, ← Bool.decide_or, ← decide_not, decide_eq_decide, ← le_iff_lt_or_eq, not_le]
  · rw [← Bool.decide_or, decide_eq_decide, le_iff_lt_or_eq]

/-- After a comparison every ordering branch decides its order. -/
theorem Ccr.Compared.decidesOrder {t : State} {r m : Nat} {r' m' : Int} (h : t.ccr.Compared r m r' m') :
    DecidesOrder t r m r' m' := by
  obtain ⟨-, -, hbcc, hbcs, hbeq, hbne, hbhi, hbls, -⟩ := branchResult
  obtain ⟨hbge, hblt, hbgt, hble⟩ := signedBranchResult
  obtain ⟨hc, hz, hs, heq⟩ := h
  have hz' : t.ccr.z = decide (r' = m') := hz.trans (decide_eq_decide.2 heq)
  obtain ⟨hge, hgt, hle⟩ := orders_of_lt_eq hc hz
  obtain ⟨hge', hgt', hle'⟩ := orders_of_lt_eq hs hz'
  rw [← beq_eq_not_bne] at hge'
  rw [← beq_eq_not_bne, Bool.and_comm] at hgt'
  rw [Bool.or_comm] at hle'
  have hne : (!t.ccr.z) = decide (r ≠ m) := by rw [hz, decide_not]
  exact fun rr => ⟨exec_of_branchesWhen hbeq hz rr, exec_of_branchesWhen hbne hne rr,
    exec_of_branchesWhen hbhi hgt rr, exec_of_branchesWhen hbls hle rr, exec_of_branchesWhen hbcc hge rr,
    exec_of_branchesWhen hbcs hc rr, exec_of_branchesWhen hbge hge' rr, exec_of_branchesWhen hbgt hgt' rr,
    exec_of_branchesWhen hble hle' rr, exec_of_branchesWhen hblt hs rr⟩

/-- The sign of a difference, corrected where the exact difference does not fit, tells the signed order. -/
theorem msb_sub_bne_outside {w : Nat} (x m : BitVec (w + 1)) :
    ((x - m).msb != decide (x.toInt - m.toInt < -2 ^ w ∨ 2 ^ w ≤ x.toInt - m.toInt)) =
      decide (x.toInt < m.toInt) := by
  have hx : -2 ^ w ≤ x.toInt ∧ x.toInt < 2 ^ w := ⟨BitVec.le_toInt x, BitVec.toInt_lt⟩
  have hm : -2 ^ w ≤ m.toInt ∧ m.toInt < 2 ^ w := ⟨BitVec.le_toInt m, BitVec.toInt_lt⟩
  have hl : -2 ^ w ≤ (x - m).toInt ∧ (x - m).toInt < 2 ^ w := ⟨BitVec.le_toInt _, BitVec.toInt_lt⟩
  have hmod : ((2 ^ (w + 1) : Nat) : Int) = 2 * 2 ^ w := by push_cast; ring
  have hwrap := bmod_cases (k := x.toInt - m.toInt) (n := 2 ^ (w + 1)) (by omega) (by omega)
  rw [← BitVec.toInt_sub, hmod] at hwrap
  rw [Bool.eq_iff_iff, bne_iff_ne, ne_eq, Bool.eq_iff_iff]
  simp only [BitVec.msb_eq_toInt, decide_eq_true_eq]
  omega

/-- The flags of a difference are those of a comparison. -/
theorem Ccr.compared_of_sub {w : Nat} {x m : BitVec (w + 1)} {f : Ccr}
    (hc : f.c = decide (x.toNat < m.toNat)) (hz : f.z = decide (x - m = 0)) (hn : f.n = (x - m).msb)
    (hv : f.v = decide (x.toInt - m.toInt < -2 ^ w ∨ 2 ^ w ≤ x.toInt - m.toInt)) :
    f.Compared x.toNat m.toNat x.toInt m.toInt where
  carry := hc
  zero := by rw [hz, decide_eq_decide, sub_eq_zero, BitVec.toNat_inj]
  sign := by rw [hn, hv, msb_sub_bne_outside]
  signed_eq := by rw [BitVec.toNat_inj, BitVec.toInt_inj]

theorem sub8_r_eq_sub (a m : Byte) : (sub8 a m false).r = a - m := by
  apply BitVec.eq_of_toNat_eq
  have := m.isLt
  rw [sub8_r_toNat, BitVec.toNat_sub, difference, Bool.toNat_false]
  omega

theorem sub16_r_eq_sub (a m : Word) : (sub16 a m).r = a - m := by
  apply BitVec.eq_of_toNat_eq
  have := m.isLt
  rw [sub16_r_toNat, BitVec.toNat_sub]
  omega

/-- SUB, CMP and CPX compare as they subtract. -/
theorem Ccr.compared_subtracted (f : Ccr) (a m : Byte) :
    (subtracted f a m 0).Compared a.toNat m.toNat a.toInt m.toInt := by
  rw [← Bool.toNat_false, ← Ccr.afterSub_sub8]
  have hv : (sub8 a m false).overflow = outside8 (a.toInt - m.toInt) := by
    rw [sub8_overflow, Bool.toNat_false, Nat.cast_zero, Int.sub_zero]
  refine Ccr.compared_of_sub (w := 7) (sub8_carry a m false) ?_ ?_ hv
  · rw [Ccr.afterSub_z, sub8_r_eq_sub]
  · rw [Ccr.afterSub_n, sub8_r_eq_sub]

/-- CPHX compares as it subtracts. -/
theorem Ccr.compared_afterSub16 (f : Ccr) (a m : Word) :
    (f.afterSub16 (sub16 a m)).Compared a.toNat m.toNat a.toInt m.toInt := by
  refine Ccr.compared_of_sub (w := 15) (sub16_carry a m) ?_ ?_ (sub16_overflow a m)
  · rw [Ccr.afterSub16_z, sub16_r_eq_sub]
  · rw [Ccr.afterSub16_n, sub16_r_eq_sub]

/-- An instruction known to leave the flags of a comparison is followed by branches that decide the order. -/
theorem decidesOrder_of_next {out : Out} {t u : State} {r m : Nat} {r' m' : Int} (hout : out = .next u)
    (hu : u.ccr.Compared r m r' m') (ht : out = .next t) : DecidesOrder t r m r' m' := by
  obtain rfl := Host.Outcome.next.inj (hout.symm.trans ht)
  exact hu.decidesOrder

/-- Settles O51: each compare leaves the flags of its difference. -/
theorem compareThenBranch : Obligations.CompareThenBranch := by
  refine ⟨fun o s t v hv => ⟨?_, ?_, ?_⟩, fun w s t v hv => ?_⟩
  · exact decidesOrder_of_next (execCmp_of_value hv) (Ccr.compared_subtracted s.ccr s.a v)
  · exact decidesOrder_of_next (execSub_of_value hv) (Ccr.compared_subtracted s.ccr s.a v)
  · exact decidesOrder_of_next (execCpx_of_value hv) (Ccr.compared_subtracted s.ccr s.x v)
  · refine decidesOrder_of_next (execCphx_of_value hv) ?_
    have h := Ccr.compared_afterSub16 s.ccr s.hx v
    rw [Ccr.afterSub16_sub16] at h
    rw [State.hx_toNat] at h ⊢
    exact h

/-! ## CBEQ -/

theorem MemRef.ea_eq_ofNat (m : MemRef) (s : State) : m.ea s = BitVec.ofNat 16 (address m s) := by
  apply BitVec.eq_of_toNat_eq
  rw [MemRef.ea_toNat, BitVec.toNat_ofNat]

/-- CBEQ in any form: the byte read once at the address from before any increment, and the branch where it is A. -/
theorem execCbeq_of_load {m : CbeqRef} {rr : Byte} {s : State} {ea : Word} {v : Byte} (hea : m.ea s = ea)
    (hv : s.load ea = .ok v) :
    execCbeq m rr s = .next { s.bumpHX m.increments with
      io := s.ioAfter (reads [ea]), pc := goesTo s m.length rr (decide (s.a = v)) } := by
  subst hea
  rw [execCbeq, hv, Result.ok_bind, outcome_ok, State.branch_eq, State.bumpHX_eq, State.bumpHX_eq]
  rfl

/-- The forms that increment: H:X goes up by one, the carry out of bit 15 lost. -/
theorem execCbeq_incrementing {m : CbeqRef} {rr : Byte} {s : State} {ea : Word} {v : Byte}
    (hinc : m.increments = true) (hea : m.ea s = ea) (hv : s.load ea = .ok v) :
    execCbeq m rr s = .next { s with
      io := s.ioAfter (reads [ea]),
      h := BitVec.ofNat 8 ((hxNat s + 1) / 256), x := BitVec.ofNat 8 ((hxNat s + 1) % 256),
      pc := goesTo s m.length rr (decide (s.a = v)) } := by
  rw [execCbeq_of_load hea hv, hinc, State.bumpHX_eq]
  rfl

theorem execCbeqa_eq (ii rr : Byte) (s : State) :
    execCbeqa ii rr s = .next { s with pc := goesTo s 3 rr (decide (s.a = ii)) } :=
  congrArg Host.Outcome.next (State.branch_eq s 3 rr _)

theorem execCbeqx_eq (ii rr : Byte) (s : State) :
    execCbeqx ii rr s = .next { s with pc := goesTo s 3 rr (decide (s.x = ii)) } :=
  congrArg Host.Outcome.next (State.branch_eq s 3 rr _)

/-- Settles O52: the address of each form is the one of a memory mode, and the indexed forms increment. -/
theorem compareEqualBranchResult : Obligations.CompareEqualBranchResult := by
  refine ⟨fun _ _ => ?_, fun _ _ => ?_, fun _ => ?_, fun _ _ => ?_, fun _ _ => ?_, fun _ _ => ?_,
    fun dd _ s _ hv => execCbeq_of_load (m := .dir dd) (MemRef.ea_eq_ofNat (.dir dd) s) hv,
    fun ff _ s _ hv => execCbeq_incrementing (m := .ix1Inc ff) rfl (MemRef.ea_eq_ofNat (.ix1 ff) s) hv,
    fun _ s _ hv => execCbeq_incrementing (m := .ixInc) rfl (MemRef.ea_eq_ofNat .ix s) hv,
    fun ff _ s _ hv => execCbeq_of_load (m := .sp1 ff) (MemRef.ea_eq_ofNat (.sp1 ff) s) hv,
    execCbeqa_eq, execCbeqx_eq⟩
  all_goals exact decodes_of_encodesTo ⟨rfl, rfl⟩

/-! ## DBNZ -/

/-- One less modulo 256 is 255 more. -/
theorem byte_sub_one (v : Byte) : v - 1 = BitVec.ofNat 8 (v.toNat + 255) := by bv_omega

/-- One less is zero for 1 only. -/
theorem byte_sub_one_bne_zero (v : Byte) : (v - 1 != 0) = decide (v.toNat ≠ 1) := by
  rw [Bool.eq_iff_iff, bne_iff_ne, decide_eq_true_eq]
  bv_omega

/-- DBNZ on memory: the byte read, one less written, and the branch where that is not zero; no flag. -/
theorem execDbnz_result {m : MemRef} (rr : Byte) {s : State} {v : Byte} (hm : s.mem.wf = true)
    (hv : s.load (m.ea s) = .ok v) (hw : s.writable (m.ea s) = true) :
    ∃ t, execDbnz m rr s = .next t ∧
      t = { s with
        mem := t.mem, io := s.ioAfter [.read (m.ea s), .write (m.ea s) (BitVec.ofNat 8 (v.toNat + 255))],
        pc := goesTo s (m.length + 1) rr (decide (v.toNat ≠ 1)) } ∧
      s.Wrote t [(m.ea s, BitVec.ofNat 8 (v.toNat + 255))] := by
  rw [← byte_sub_one, ← byte_sub_one_bne_zero]
  obtain ⟨u, hu⟩ := State.store_of_writable (s := s.afterRead (m.ea s)) (v - 1) hw
  refine ⟨u.branch (m.length + 1) rr (v - 1 != 0), ?_, ?_, (State.store_wrote_after_accesses hu hm).congr rfl⟩
  · rw [execDbnz, hv, Result.ok_bind, hu]
    rfl
  · rw [State.branch_eq, State.store_frame_after_accesses hu]
    rfl

theorem execDbnza_eq (rr : Byte) (s : State) :
    execDbnza rr s = .next { s with
      a := BitVec.ofNat 8 (s.a.toNat + 255), pc := goesTo s 2 rr (decide (s.a.toNat ≠ 1)) } := by
  rw [execDbnza, State.branch_eq, byte_sub_one_bne_zero, byte_sub_one]
  rfl

theorem execDbnzx_eq (rr : Byte) (s : State) :
    execDbnzx rr s = .next { s with
      x := BitVec.ofNat 8 (s.x.toNat + 255), pc := goesTo s 2 rr (decide (s.x.toNat ≠ 1)) } := by
  rw [execDbnzx, State.branch_eq, byte_sub_one_bne_zero, byte_sub_one]
  rfl

/-- Settles O53: one store of one less on memory, and the two register forms. -/
theorem decrementBranchResult : Obligations.DecrementBranchResult := by
  refine ⟨fun _ _ => ?_, fun _ _ => ?_, fun _ => ?_, fun _ _ => ?_, fun _ => ?_, fun _ => ?_,
    fun _ rr _ _ hm hv hw => execDbnz_result rr hm hv hw, execDbnza_eq, execDbnzx_eq⟩
  all_goals exact decodes_of_encodesTo ⟨rfl, rfl⟩

end Sys2Proof.Machine

/-! The proofs about 46_jump_subroutine.md: BSR, JSR and RTS (O55), the return from a subroutine (O56) and JMP (O54).
BSR and JSR are one call, told apart by the return address and the target. -/

namespace Sys2Proof

/-- A 16-bit operand is laid out as the two bytes it is written with. -/
theorem wordBytes_ofNat (hi lo : Byte) :
    [hiByte (BitVec.ofNat 16 (256 * hi.toNat + lo.toNat)), loByte (BitVec.ofNat 16 (256 * hi.toNat + lo.toNat))] =
      [hi, lo] := by
  rw [← wordOf_eq_ofNat, hiByte_wordOf, loByte_wordOf]

end Sys2Proof

namespace Sys2Proof.Machine

open Sys2Proof Sys2Proof.Claims

/-! ## Calls -/

/-- A call: the return address written low byte first, SP two lower, PC at the target; no flag. -/
theorem callTo_result {s : State} (ret target : Word) (hm : s.mem.wf = true) (hw : s.writable s.sp = true)
    (hw' : s.writable (s.sp - 1) = true) :
    ∃ t, outcome (callTo s ret target) = .next t ∧
      t = { s with
        mem := t.mem, sp := s.sp - 2, pc := target,
        io := s.ioAfter [.write s.sp (BitVec.ofNat 8 (ret.toNat % 256)),
          .write (s.sp - 1) (BitVec.ofNat 8 (ret.toNat / 256))] } ∧
      s.Wrote t [(s.sp - 1, BitVec.ofNat 8 (ret.toNat / 256)), (s.sp, BitVec.ofNat 8 (ret.toNat % 256))] := by
  rw [← hiByte_eq_ofNat, ← loByte_eq_ofNat]
  obtain ⟨u, hu⟩ := State.pushWord_of_writable ret hw hw'
  have hsp : s.sp - 1 - 1 = s.sp - 2 := by bv_omega
  refine ⟨{ u with pc := target }, ?_, ?_, (State.pushWord_wrote hu hm).congr rfl⟩
  · rw [callTo, hu]
    rfl
  · rw [State.pushWord_frame hu, hsp]

/-- BSR calls the target of a taken branch. -/
theorem execBsr_eq_callTo (rr : Byte) (s : State) :
    execBsr rr s = outcome (callTo s (nextPc s 2) (goesTo s 2 rr true)) :=
  congrArg₂ (fun ret target => outcome (callTo s ret target)) (State.next_eq_ofNat s 2)
    (State.target_eq_ofInt s 2 rr)

/-- JSR calls the effective address. -/
theorem execJsr_eq_callTo (m : MemRef) (s : State) :
    execJsr m s = outcome (callTo s (nextPc s m.length) (BitVec.ofNat 16 (address m s))) := by
  rw [execJsr, State.next_eq_ofNat, MemRef.ea_eq_ofNat, nextPc]

/-! ## Returns -/

/-- RTS: the two bytes above SP read, the high byte first, SP two higher, PC their word; no flag. -/
theorem execRts_of_reads {s : State} {hi lo : Byte} (h : s.Reads [(s.sp + 1, hi), (s.sp + 2, lo)]) :
    execRts s = .next { s with
      io := s.ioAfter (reads [s.sp + 1, s.sp + 2]), sp := s.sp + 2,
      pc := BitVec.ofNat 16 (256 * hi.toNat + lo.toNat) } := by
  have hsp : s.sp + 1 + 1 = s.sp + 2 := by bv_omega
  have hpull := State.pullWord_eq_ok.2 ⟨hi, lo, hsp.symm ▸ h, (wordOf_eq_ofNat hi lo).symm, rfl⟩
  rw [execRts, hpull, hsp]
  rfl

/-- Settles O55: BSR and JSR as calls, RTS by the bytes it reads. -/
theorem callAndReturnResult : Obligations.CallAndReturnResult := by
  refine ⟨?_, ?_, fun hh ll => ?ext, fun ee ff => ?ix2, ?_, ?_, ?_, fun _ => rfl, fun _ => rfl,
    fun s hm hw hw' => ⟨fun rr => ?bsr, fun m => ?jsr⟩, fun _ _ _ h => execRts_of_reads h⟩
  case ext => exact decodes_of_encodesTo ⟨rfl, congrArg (0xCD :: ·) (wordBytes_ofNat hh ll)⟩
  case ix2 => exact decodes_of_encodesTo ⟨rfl, congrArg (0xDD :: ·) (wordBytes_ofNat ee ff)⟩
  case bsr =>
    have hcall := callTo_result (nextPc s 2) (goesTo s 2 rr true) hm hw hw'
    rwa [← execBsr_eq_callTo] at hcall
  case jsr =>
    have hcall := callTo_result (nextPc s m.length) (BitVec.ofNat 16 (address m s)) hm hw hw'
    rwa [← execJsr_eq_callTo] at hcall
  all_goals
    intros
    exact decodes_of_encodesTo ⟨rfl, rfl⟩

/-! ## A call and its return -/

/-- What a call leaves for the return, where the stack is RAM. -/
theorem callTo_stacks {s t : State} {ret target : Word} (h : callTo s ret target = .ok t) (hm : s.mem.wf = true)
    (hlo : s.kindAt s.sp = .ram) (hhi : s.kindAt (s.sp - 1) = .ram) :
    t.sp = s.sp - 2 ∧ t.params = s.params ∧ t.byteAt (s.sp - 1) = hiByte ret ∧ t.byteAt s.sp = loByte ret := by
  obtain ⟨u, hu, rfl⟩ := callTo_cases h
  have hwrote : s.Wrote { u with pc := target } _ := (State.pushWord_wrote hu hm).congr rfl
  have hne : s.sp ≠ s.sp - 1 := by bv_omega
  refine ⟨?_, ?_, hwrote.byteAt_head hhi, ?_⟩
  · rw [State.pushWord_frame hu]
    bv_omega
  · rw [State.pushWord_frame hu]
  · rw [hwrote.byteAt_tail hne, State.afterStores, if_pos ⟨rfl, hlo⟩]

theorem State.not_device_of_ram {s : State} {a : Word} (h : s.kindAt a = .ram) (id : Nat) :
    s.kindAt a ≠ .device id := by
  simp [h]

/-- RTS from RAM: only SP and PC change. -/
theorem execRts_of_ram {s : State} (hhi : s.kindAt (s.sp + 1) = .ram) (hlo : s.kindAt (s.sp + 2) = .ram) :
    execRts s = .next { s with
      sp := s.sp + 2, pc := wordOf (s.byteAt (s.sp + 1)) (s.byteAt (s.sp + 2)) } := by
  have hread : s.afterRead (s.sp + 1) = s := State.afterRead_of_memory (State.not_device_of_ram hhi)
  have hio : s.ioAfter (reads [s.sp + 1, s.sp + 2]) = s.io :=
    State.ioAfter_of_memory (List.forall_mem_cons.2
      ⟨State.not_device_of_ram hhi, List.forall_mem_singleton.2 (State.not_device_of_ram hlo)⟩)
  have hreads : s.Reads [(s.sp + 1, s.byteAt (s.sp + 1)), (s.sp + 2, s.byteAt (s.sp + 2))] := by
    refine ⟨State.load_memory (.inl hhi), ?_, trivial⟩
    rw [hread]
    exact State.load_memory (.inl hlo)
  rw [execRts_of_reads hreads, hio, wordOf_eq_ofNat]

/-- Where SP and the two bytes a call stacked are kept, RTS returns to the address the call was given. -/
theorem execRts_after_call {s t u : State} {ret target : Word} (h : outcome (callTo s ret target) = .next t)
    (hm : s.mem.wf = true) (hlo : s.kindAt s.sp = .ram) (hhi : s.kindAt (s.sp - 1) = .ram)
    (hulo : u.byteAt s.sp = t.byteAt s.sp) (huhi : u.byteAt (s.sp - 1) = t.byteAt (s.sp - 1))
    (husp : u.sp = t.sp) (hup : u.params = t.params) :
    execRts u = .next { u with sp := s.sp, pc := ret } := by
  obtain ⟨hsp, hp, hthi, htlo⟩ := callTo_stacks (outcome_eq_next.1 h) hm hlo hhi
  have hsp1 : u.sp + 1 = s.sp - 1 := by bv_omega
  have hsp2 : u.sp + 2 = s.sp := by bv_omega
  have hkind : ∀ a, u.kindAt a = s.kindAt a := State.kindAt_congr (hup.trans hp)
  have hrts := execRts_of_ram (s := u) (by rw [hsp1, hkind, hhi]) (by rw [hsp2, hkind, hlo])
  rwa [hsp1, hsp2, huhi, hulo, hthi, htlo, wordOf_hiByte_loByte] at hrts

/-- Settles O56: JSR and BSR are calls with the address after them. -/
theorem callThenReturn : Obligations.CallThenReturn := by
  intro s t u hm hlo hhi hulo huhi husp hup
  refine ⟨fun m h => ?_, fun rr h => ?_⟩
  · exact execRts_after_call ((execJsr_eq_callTo m s).symm.trans h) hm hlo hhi hulo huhi husp hup
  · exact execRts_after_call ((execBsr_eq_callTo rr s).symm.trans h) hm hlo hhi hulo huhi husp hup

/-! ## Jumps -/

theorem execJmp_eq (m : MemRef) (s : State) :
    execJmp m s = .next { s with pc := BitVec.ofNat 16 (address m s) } := by
  rw [execJmp, MemRef.ea_eq_ofNat]

/-- Settles O54: the effective address in numbers. -/
theorem jmpResult : Obligations.JmpResult := by
  refine ⟨?_, fun hh ll => ?ext, fun ee ff => ?ix2, ?_, ?_, fun _ => rfl, fun _ => rfl, execJmp_eq⟩
  case ext => exact decodes_of_encodesTo ⟨rfl, congrArg (0xCC :: ·) (wordBytes_ofNat hh ll)⟩
  case ix2 => exact decodes_of_encodesTo ⟨rfl, congrArg (0xDC :: ·) (wordBytes_ofNat ee ff)⟩
  all_goals
    intros
    exact decodes_of_encodesTo ⟨rfl, rfl⟩

end Sys2Proof.Machine

/-! The proofs about 47_control.md: SWI (O58), STOP and WAIT (O57) and RTI (O59). SWI is the exception that the entry
of an interrupt is too, so the rule about taking one stands here. -/

namespace Sys2Proof.Machine

open Sys2Proof Sys2Proof.Claims

/-! ## Taking an exception -/

/-- The stacked bytes with the return address as the model splits it. -/
theorem frame_eq (s : State) (ret : Word) :
    frame s ret = [(s.sp - 4, s.ccr.toByte), (s.sp - 3, s.a), (s.sp - 2, s.x), (s.sp - 1, hiByte ret),
      (s.sp, loByte ret)] := by
  rw [hiByte_eq_ofNat, loByte_eq_ofNat, frame]

theorem State.pushAccesses_eq_stacked (s : State) (ret : Word) : s.pushAccesses ret = stacked s ret := by
  rw [stacked, frame_eq]
  rfl

/-- An exception whose accesses go through is taken: the frame, the vector and everything else kept. -/
theorem State.takeException_result {s : State} (ret : Word) {vec : Word} (hm : s.mem.wf = true)
    (hw : frameWritable s) (hv : s.readable vec = true) (hv' : s.readable (vec + 1) = true) :
    ∃ t, s.takeException ret vec = .ok t ∧ s.Wrote t (frame s ret) ∧
      State.loadWord { t with io := s.ioAfter (stacked s ret) } vec = .ok t.pc ∧
      t = { s with
        mem := t.mem, io := s.ioAfter (stacked s ret ++ reads [vec, vec + 1]), sp := s.sp - 5,
        ccr := { s.ccr with i := true }, pc := t.pc } := by
  obtain ⟨hw0, hw1, hw2, hw3, hw4⟩ := hw
  obtain ⟨t, ht⟩ := State.takeException_of_accessible (ret := ret) hw0 hw1 hw2 hw3 hw4 hv hv'
  obtain ⟨hstate, -, hpc, hwrote⟩ := State.takeException_cases ht hm
  rw [State.pushAccesses_eq_stacked] at hstate hpc
  rw [← frame_eq] at hwrote
  exact ⟨t, ht, hwrote, hpc, hstate⟩

/-! ## SWI -/

theorem execSwi_eq (s : State) : execSwi s = outcome (s.takeException (nextPc s 1) vecSwi) :=
  congrArg (fun ret => outcome (s.takeException ret vecSwi)) (State.next_eq_ofNat s 1)

/-- Settles O58: SWI takes an exception through $FFFC and returns to the address after it. -/
theorem swiResult : Obligations.SwiResult := by
  refine ⟨decodes_of_encodesTo ⟨rfl, rfl⟩, fun s hm hw hv hv' => ?_⟩
  obtain ⟨t, ht, hwrote, hpc, hstate⟩ := State.takeException_result (vec := vecSwi) (nextPc s 1) hm hw hv hv'
  exact ⟨t, (execSwi_eq s).trans (outcome_eq_next.2 ht), hwrote, hpc, hstate⟩

/-! ## STOP and WAIT -/

theorem execStop_eq (s : State) :
    execStop s = .next { s with
      ccr := { s.ccr with i := false }, runState := .stopped, pc := nextPc s 1 } :=
  congrArg Host.Outcome.next (State.advance_eq _ 1)

theorem execWait_eq (s : State) :
    execWait s = .next { s with
      ccr := { s.ccr with i := false }, runState := .waiting, pc := nextPc s 1 } :=
  congrArg Host.Outcome.next (State.advance_eq _ 1)

/-- Settles O57: the bytes and the next state of each. -/
theorem stopWaitResult : Obligations.StopWaitResult :=
  ⟨decodes_of_encodesTo ⟨rfl, rfl⟩, decodes_of_encodesTo ⟨rfl, rfl⟩, fun s => ⟨execStop_eq s, execWait_eq s⟩⟩

/-! ## RTI -/

/-- RTI: the five bytes above SP read in ascending order, SP five higher. -/
theorem execRti_of_reads {s : State} {flags a x hi lo : Byte}
    (h : s.Reads [(s.sp + 1, flags), (s.sp + 2, a), (s.sp + 3, x), (s.sp + 4, hi), (s.sp + 5, lo)]) :
    execRti s = .next { s with
      io := s.ioAfter (reads [s.sp + 1, s.sp + 2, s.sp + 3, s.sp + 4, s.sp + 5]),
      ccr := Ccr.ofByte flags, a := a, x := x, pc := wordOf hi lo, sp := s.sp + 5 } :=
  outcome_eq_next.2 (State.returnFromException_eq_ok.2 ⟨flags, a, x, hi, lo, h, rfl⟩)

/-- Settles O59: `execRti_of_reads`, with PC as a number; a flag is a bit of the byte's number. -/
theorem rtiResult : Obligations.RtiResult := by
  refine ⟨decodes_of_encodesTo ⟨rfl, rfl⟩, fun s flags a x hi lo h => ?_⟩
  rw [← wordOf_eq_ofNat]
  exact execRti_of_reads h

end Sys2Proof.Machine

/-! The proofs about 60_exceptions.md: the entry of an interrupt (O11), its recognition (O12), the reasons a step
stops (O21), completion where no address faults (O22), the return from an exception (O60) and a step that executes
(O9). -/

namespace Sys2Proof.Machine

open Sys2Proof Sys2Proof.Claims

/-! ## Interrupts -/

/-- Settles O11: the boundary enters the interrupt, which is the exception of SWI with PC as it stands, from
RUNNING. -/
theorem interruptEntry : Obligations.InterruptEntry := by
  intro s vec hreset hrec hm hw hv hv'
  have hstep : step s = outcome (s.tick.interruptEntry vec) := by
    simp only [step, State.boundaryEvent_eq_interrupt.2 ⟨hreset, hrec⟩]
  obtain ⟨t, ht, hwrote, hpc, hstate⟩ :=
    State.takeException_result (s := { s.tick with runState := .running }) s.pc hm hw hv hv'
  exact ⟨t, hstep.trans (outcome_eq_next.2 ht), hwrote, hpc, hstate⟩

/-- The vector found is that of a source that requests while none before it in the list does. -/
theorem first_pending_iff {sources : List IrqSource} {vec : Word} :
    (sources.find? (·.pending)).map (·.vector) = some vec ↔
      ∃ before q after, sources = before ++ q :: after ∧ (∀ r ∈ before, r.pending = false) ∧
        q.pending = true ∧ q.vector = vec := by
  simp only [Option.map_eq_some_iff, List.find?_eq_some_iff_append, Bool.not_eq_true']
  constructor
  · rintro ⟨q, ⟨hq, before, after, hsplit, hbefore⟩, hvec⟩
    exact ⟨before, q, after, hsplit, hbefore, hq, hvec⟩
  · rintro ⟨before, q, after, hsplit, hbefore, hq, hvec⟩
    exact ⟨q, ⟨hq, before, after, hsplit, hbefore⟩, hvec⟩

/-- Settles O12: by the delay and I, then by the pin, then by STOP. -/
theorem interruptRecognition : Obligations.InterruptRecognition := by
  intro s vec
  rw [← first_pending_iff]
  unfold State.recognised
  cases s.cliDelay with
  | true => simp
  | false =>
    cases s.ccr.i with
    | true => simp
    | false =>
      cases s.irqPin with
      | false => simp [eq_comm]
      | true => by_cases hstop : s.runState = .stopped <;> simp [hstop]

/-! ## The faults of an access -/

/-- Why an access of `s` stops: nothing is at the address, or it is ROM whose writes fault (R419, R420). -/
def State.AccessFault (s : State) (f : Fault) : Prop :=
  (∃ a, f = .unimplementedAccess a ∧ s.kindAt a = .unimplemented ∧ s.params.unimplAccess = .fault) ∨
    ∃ a, f = .romWrite a ∧ s.kindAt a = .romFaulting

theorem State.AccessFault.congr {s t : State} {f : Fault} (h : t.AccessFault f) (hp : t.params = s.params) :
    s.AccessFault f := by
  simpa only [State.AccessFault, State.kindAt_congr hp, hp] using h

/-- If the operation stops, it is for a fault of an access of `s`. -/
def State.Guards (s : State) {α : Type} (r : Result α) : Prop := ∀ f, r = .error f → s.AccessFault f

theorem State.Guards.ok (s : State) {α : Type} (a : α) : s.Guards (.ok a) := by
  rintro f ⟨⟩

/-- A chain of operations stops where one of its links does. -/
theorem State.Guards.bind {s : State} {α β : Type} {r : Result α} {g : α → Result β} (hr : s.Guards r)
    (hg : ∀ a, r = .ok a → s.Guards (g a)) : s.Guards (r >>= g) := by
  cases r with
  | error e => exact fun f h => hr f (by cases h; rfl)
  | ok a => exact hg a rfl

/-- An operation, then one that never stops. -/
theorem State.Guards.bind_ok {s : State} {α β : Type} {r : Result α} (hr : s.Guards r) (g : α → β) :
    s.Guards (r >>= fun a => .ok (g a)) :=
  hr.bind fun a _ => .ok s (g a)

/-- The platform alone decides what faults. -/
theorem State.Guards.congr {s t : State} {α : Type} {r : Result α} (h : t.Guards r)
    (hp : t.platform = s.platform) : s.Guards r :=
  fun f hf => (h f hf).congr (congrArg Platform.params hp)

/-! ### The shared operations -/

theorem State.guards_loadAs (s : State) (kind : Config.AccessKind) (a : Word) : s.Guards (s.loadAs kind a) := by
  intro f h
  unfold State.loadAs at h
  split at h
  · cases h
  · cases h
  · cases h
  · cases h
  · next hkind =>
    split at h
    · next hpolicy =>
      cases h
      exact .inl ⟨a, rfl, hkind, hpolicy⟩
    · cases h

theorem State.guards_load (s : State) (a : Word) : s.Guards (s.load a) := s.guards_loadAs .data a

theorem State.guards_store (s : State) (a : Word) (v : Byte) : s.Guards (s.store a v) := by
  intro f h
  unfold State.store at h
  split at h
  · cases h
  · cases h
  · next hkind =>
    cases h
    exact .inr ⟨a, rfl, hkind⟩
  · cases h
  · next hkind =>
    split at h
    · next hpolicy =>
      cases h
      exact .inl ⟨a, rfl, hkind, hpolicy⟩
    · cases h

theorem State.guards_loadWord (s : State) (a : Word) : s.Guards (s.loadWord a) :=
  (s.guards_load a).bind fun _ _ => (((s.afterRead a).guards_load (a + 1)).congr rfl).bind_ok _

theorem State.guards_storeWord (s : State) (a w : Word) : s.Guards (s.storeWord a w) :=
  (s.guards_store a _).bind fun s1 h1 => (s1.guards_store (a + 1) _).congr (State.store_platform h1)

theorem State.guards_push (s : State) (v : Byte) : s.Guards (s.push v) := (s.guards_store s.sp v).bind_ok _

theorem State.guards_pull (s : State) : s.Guards s.pull := (s.guards_load (s.sp + 1)).bind_ok _

theorem State.guards_pushWord (s : State) (w : Word) : s.Guards (s.pushWord w) :=
  (s.guards_push _).bind fun s1 h1 => (s1.guards_push _).congr (State.push_platform h1)

theorem State.guards_pullWord (s : State) : s.Guards s.pullWord :=
  s.guards_pull.bind fun ⟨_, s1⟩ h1 => (s1.guards_pull.congr (State.pull_platform h1)).bind_ok _

theorem State.guards_takeException (s : State) (ret vec : Word) : s.Guards (s.takeException ret vec) :=
  (s.guards_pushWord ret).bind fun s1 h1 =>
    have p1 := State.pushWord_platform h1
    ((s1.guards_push _).congr p1).bind fun s2 h2 =>
      have p2 := (State.push_platform h2).trans p1
      ((s2.guards_push _).congr p2).bind fun s3 h3 =>
        have p3 := (State.push_platform h3).trans p2
        ((s3.guards_push _).congr p3).bind fun s4 h4 =>
          ((s4.guards_loadWord vec).congr ((State.push_platform h4).trans p3)).bind_ok _

theorem State.guards_returnFromException (s : State) : s.Guards s.returnFromException :=
  s.guards_pull.bind fun ⟨_, s1⟩ h1 =>
    have p1 := State.pull_platform h1
    (s1.guards_pull.congr p1).bind fun ⟨_, s2⟩ h2 =>
      have p2 := (State.pull_platform h2).trans p1
      (s2.guards_pull.congr p2).bind fun ⟨_, s3⟩ h3 =>
        (s3.guards_pullWord.congr ((State.pull_platform h3).trans p2)).bind_ok _

theorem State.guards_resetEntry (s : State) : s.Guards s.resetEntry :=
  ((State.guards_loadWord { s with io := Config.deviceAfterReset s.io s.draws } s.params.vecReset).congr
    (s := s) rfl).bind_ok _

/-! ### The operands and the shapes of instructions -/

theorem State.guards_value (s : State) (o : Src) : s.Guards (o.value s) := by
  cases o with
  | imm => exact .ok s _
  | mem m => exact s.guards_load (m.ea s)

theorem State.guards_wideValue (s : State) (w : WideSrc) : s.Guards (w.value s) := by
  cases w with
  | imm16 => exact .ok s _
  | dir dd => exact s.guards_loadWord (zext16 dd)

theorem State.guards_source (s : State) (f : MovForm) : s.Guards (f.source s) := by
  cases f with
  | imd => exact .ok s _
  | dd | dixInc | ixIncD => exact s.guards_load _

theorem State.guards_withSrc (s : State) (o : Src) (f : Byte → State) : s.Guards (withSrc o s f) :=
  (s.guards_value o).bind_ok _

theorem State.guards_storeReg (s : State) (v : Byte) (m : MemRef) : s.Guards (storeReg v m s) :=
  (s.guards_store _ v).bind_ok _

theorem State.guards_onMem (s : State) (op : Ccr → Byte → Byte × Ccr) (m : MemRef) : s.Guards (onMem op m s) :=
  (s.guards_load _).bind fun _ _ => (((s.afterRead (m.ea s)).guards_store _ _).congr rfl).bind_ok _

theorem State.guards_modifyDirect (s : State) (f : Byte → Byte) (dd : Byte) : s.Guards (modifyDirect f dd s) :=
  (s.guards_load _).bind fun _ _ => (((s.afterRead (zext16 dd)).guards_store _ _).congr rfl).bind_ok _

theorem State.guards_testBitBranch (s : State) (want : Bool) (n : Fin 8) (dd rr : Byte) :
    s.Guards (testBitBranch want n dd rr s) :=
  (s.guards_load (zext16 dd)).bind_ok _

theorem State.guards_pushReg (s : State) (v : Byte) : s.Guards (pushReg v s) := (s.guards_push v).bind_ok _

theorem State.guards_callTo (s : State) (ret target : Word) : s.Guards (callTo s ret target) :=
  (s.guards_pushWord ret).bind_ok _

/-! ### Every instruction -/

/-- A next state, or a stop for a fault of an access of `s`; no refusal. -/
inductive State.Answers (s : State) : Out → Prop
  | next (t : State) : s.Answers (.next t)
  | fault {f : Fault} (h : s.AccessFault f) : s.Answers (.fault f)

theorem State.Guards.answers {s : State} {r : Result State} (h : s.Guards r) : s.Answers (outcome r) := by
  cases r with
  | ok t => exact .next t
  | error f => exact .fault (h f rfl)

theorem State.Answers.congr {s t : State} {o : Out} (h : t.Answers o) (hp : t.params = s.params) : s.Answers o := by
  cases h with
  | next u => exact .next u
  | fault hf => exact .fault (hf.congr hp)

/-- An instruction stops only for one of its accesses, by the shape of the instruction: those that read, those that
store, push or pull, DAA and DIV with their branches, and, in the last arm, those that touch registers, flags and PC
alone. -/
theorem exec_answers (i : Instr) (s : State) : s.Answers (exec i s) := by
  cases i with
  | sub o | cmp o | sbc o | cpx o | and o | bit o | lda o | eor o | adc o | ora o | add o | ldx o =>
    exact (s.guards_withSrc o _).answers
  | tst m | cbeq m => exact ((s.guards_load (m.ea s)).bind_ok _).answers
  | cphx w | ldhx w => exact ((s.guards_wideValue w).bind_ok _).answers
  | brset | brclr => exact (s.guards_testBitBranch _ _ _ _).answers
  | neg m | com m | lsr m | ror m | asr m | lsl m | rol m | dec m | inc m => exact (s.guards_onMem _ m).answers
  | bset | bclr => exact (s.guards_modifyDirect _ _).answers
  | dbnz m =>
    exact ((s.guards_load _).bind fun _ _ =>
      (((s.afterRead (m.ea s)).guards_store _ _).congr rfl).bind_ok _).answers
  | mov f =>
    exact ((s.guards_source f).bind fun _ _ =>
      (((s.setIo (s.ioAfter (f.reads s))).guards_store _ _).congr rfl).bind_ok _).answers
  | sta m | stx m => exact (s.guards_storeReg _ m).answers
  | clr => exact ((s.guards_store _ _).bind_ok _).answers
  | sthx => exact ((s.guards_storeWord _ _).bind_ok _).answers
  | psha | pshh | pshx => exact (s.guards_pushReg _).answers
  | pula | pulh | pulx => exact (s.guards_pull.bind_ok _).answers
  | bsr | jsr => exact (s.guards_callTo _ _).answers
  | rts => exact (s.guards_pullWord.bind_ok _).answers
  | swi => exact (s.guards_takeException _ _).answers
  | rti => exact s.guards_returnFromException.answers
  | daa =>
    change s.Answers (execDaa s)
    unfold execDaa
    split <;> exact .next _
  | div =>
    change s.Answers (execDiv s)
    simp only [execDiv]
    split <;> exact .next _
  | _ => exact .next _

/-! ### Where no address faults -/

theorem State.Accessible.not_accessFault {s : State} (h : s.Accessible) (f : Fault) : ¬ s.AccessFault f := by
  rintro (⟨a, -, hkind, hpolicy⟩ | ⟨a, -, hkind⟩)
  · have hread := (h a).1
    simp [State.readable, hkind, hpolicy] at hread
  · have hwrite := (h a).2
    simp [State.writable, hkind] at hwrite

theorem State.Answers.next_of_accessible {s : State} {o : Out} (ho : s.Answers o) (h : s.Accessible) :
    ∃ t, o = .next t := by
  cases ho with
  | next t => exact ⟨t, rfl⟩
  | fault hf => exact absurd hf (h.not_accessFault _)

/-- RAM, ROM that ignores writes and I/O registers take every access. -/
theorem State.accessible_of_kinds {s : State}
    (h : ∀ a, s.kindAt a = .ram ∨ s.kindAt a = .rom ∨ ∃ id, s.kindAt a = .device id) : s.Accessible := by
  intro a
  rcases h a with hkind | hkind | ⟨id, hkind⟩ <;> simp [State.readable, State.writable, hkind]

/-- Settles O22: an instruction stops only for an access that faults, and there is none. -/
theorem execCompletesOnRam : Obligations.ExecCompletesOnRam :=
  ⟨fun i s h => (exec_answers i s).next_of_accessible h,
    fun _ h => State.accessible_of_kinds fun a => .inl (h a), fun _ h => State.accessible_of_kinds h⟩

/-! ### Every step -/

/-- A reader stops where one of its reads does. -/
theorem State.guards_formRead (s : State) {rd : Nat → Result Byte} (hrd : ∀ k, s.Guards (rd k)) (f : Form)
    (n : Nat) : s.Guards (f.read rd n) := by
  cases f with
  | inh => exact .ok s _
  | one => exact (hrd n).bind_ok _
  | two | wide => exact (hrd n).bind fun _ _ => (hrd (n + 1)).bind_ok _

theorem State.guards_readInstr (s : State) {rd : Nat → Result Byte} (hrd : ∀ k, s.Guards (rd k)) :
    s.Guards (readInstr rd) := by
  refine (hrd 0).bind fun b0 _ => ?_
  split
  · refine (hrd 1).bind fun b1 _ => ?_
    split
    · exact s.guards_formRead hrd _ 2
    · exact .ok s _
  · split
    · exact s.guards_formRead hrd _ 1
    · exact .ok s _

theorem State.guards_fetch (s : State) : s.Guards s.fetch :=
  s.guards_readInstr fun k => ((s.afterFetch k).guards_loadAs .fetch _).congr rfl

/-- Executing at PC answers like an instruction, or stops for an unassigned opcode. -/
theorem execute_answers (s : State) :
    s.Answers (execute s) ∨ ∃ b0 b1, execute s = .fault (.illegalOpcode s.pc b0 b1) ∧
      s.params.illegalOpcode = .fault ∧ s.fetch = .ok (.illegal b0 b1) := by
  cases hf : s.fetch with
  | error f =>
    have hx : execute s = .fault f := by simp only [execute, hf]
    exact .inl (hx ▸ .fault (s.guards_fetch f hf))
  | ok d =>
    cases d with
    | instr i len =>
      rw [execute_of_fetch hf]
      exact .inl ((exec_answers i (s.afterFetch len)).congr rfl)
    | illegal b0 b1 =>
      cases hp : s.params.illegalOpcode with
      | fault => exact .inr ⟨b0, b1, execute_illegal_of_fault hf hp, rfl, rfl⟩
      | reset =>
        rw [execute_illegal_of_reset hf hp]
        exact .inl ((s.afterFetch (illegalLength b1)).guards_resetEntry.answers.congr rfl)

/-- So does every step, by what the boundary does. -/
theorem step_answers (s : State) :
    s.Answers (step s) ∨ ∃ b0 b1, step s = .fault (.illegalOpcode s.pc b0 b1) ∧
      s.params.illegalOpcode = .fault ∧ s.tick.clearDelay.fetch = .ok (.illegal b0 b1) := by
  cases hb : s.boundaryEvent with
  | reset =>
    simp only [step, hb]
    exact .inl (s.tick.guards_resetEntry.answers.congr rfl)
  | interrupt vec =>
    simp only [step, hb]
    exact .inl ((State.guards_takeException { s.tick with runState := .running } s.pc vec).answers.congr rfl)
  | execute =>
    rw [step_of_executes (State.boundaryEvent_eq_execute.1 hb)]
    exact (execute_answers s.tick.clearDelay).imp_left fun h => h.congr rfl
  | idle =>
    simp only [step, hb]
    exact .inl (.next _)

/-- Settles O21: an unassigned opcode, or a fault of an access. -/
theorem stepStopsOnlyFor : Obligations.StepStopsOnlyFor := by
  refine ⟨fun s f h => ?_, fun s r h => ?_⟩
  · rcases step_answers s with ha | ⟨b0, b1, hs, hillegal⟩
    · rw [h] at ha
      cases ha with
      | fault hf => exact .inr hf
    · exact .inl ⟨b0, b1, Host.Outcome.fault.inj (h.symm.trans hs), hillegal⟩
  · rcases step_answers s with ha | ⟨b0, b1, hs, -⟩
    · rw [h] at ha
      cases ha
    · cases h.symm.trans hs

/-! ## The return from an exception -/

/-- Where no two stores go to one address, each byte of RAM stored to is what was stored. -/
theorem State.afterStores_of_mem {s : State} {l : List (Word × Byte)} (hl : (l.map Prod.fst).Nodup) {a : Word}
    {v : Byte} (hav : (a, v) ∈ l) (hk : s.kindAt a = .ram) : s.afterStores l a = v := by
  induction l with
  | nil => cases hav
  | cons p earlier ih =>
    obtain ⟨hp, hearlier⟩ := List.nodup_cons.1 hl
    rcases List.mem_cons.1 hav with rfl | hmem
    · rw [State.afterStores, if_pos ⟨rfl, hk⟩]
    · have hne : a ≠ p.1 := fun he => hp (he ▸ List.mem_map_of_mem hmem)
      rw [State.afterStores, if_neg fun hc => hne hc.1]
      exact ih hearlier hmem

/-- The five stacked bytes lie at five addresses, wherever SP is. -/
theorem frame_nodup (s : State) (ret : Word) : ((frame s ret).map Prod.fst).Nodup := by
  have hoffsets : (frame s ret).map Prod.fst = ([4, 3, 2, 1, 0] : List Word).map (s.sp - ·) := by
    simp [frame]
  rw [hoffsets]
  exact List.Nodup.map sub_right_injective (by decide)

/-- Reads of RAM give the bytes there. -/
theorem State.reads_of_ram {s : State} {l : List Word} (h : ∀ a ∈ l, s.kindAt a = .ram) :
    s.Reads (l.map fun a => (a, s.byteAt a)) := by
  induction l with
  | nil => trivial
  | cons a l ih =>
    obtain ⟨ha, hl⟩ := List.forall_mem_cons.1 h
    refine ⟨State.load_memory (.inl ha), ?_⟩
    rw [State.afterRead_of_memory (State.not_device_of_ram ha)]
    exact ih hl

/-- Reads of RAM leave the devices alone. -/
theorem State.ioAfter_reads_of_ram {s : State} {l : List Word} (h : ∀ a ∈ l, s.kindAt a = .ram) :
    s.ioAfter (reads l) = s.io :=
  State.ioAfter_of_memory (List.forall_mem_map.2 fun a ha => State.not_device_of_ram (h a ha))

/-- RTI from RAM: the devices see nothing. -/
theorem execRti_of_ram {s : State}
    (h : ∀ a ∈ [s.sp + 1, s.sp + 2, s.sp + 3, s.sp + 4, s.sp + 5], s.kindAt a = .ram) :
    execRti s = .next { s with
      ccr := Ccr.ofByte (s.byteAt (s.sp + 1)), a := s.byteAt (s.sp + 2), x := s.byteAt (s.sp + 3),
      pc := wordOf (s.byteAt (s.sp + 4)) (s.byteAt (s.sp + 5)), sp := s.sp + 5 } := by
  rw [execRti_of_reads (State.reads_of_ram h), State.ioAfter_reads_of_ram h]

/-- What an exception leaves for RTI, where the stack is RAM. -/
theorem State.takeException_stacks {s t : State} {ret vec : Word} (h : s.takeException ret vec = .ok t)
    (hm : s.mem.wf = true) (hram : frameInRam s) :
    t.sp = s.sp - 5 ∧ t.params = s.params ∧ t.byteAt s.sp = loByte ret ∧ t.byteAt (s.sp - 1) = hiByte ret ∧
      t.byteAt (s.sp - 2) = s.x ∧ t.byteAt (s.sp - 3) = s.a ∧ t.byteAt (s.sp - 4) = s.ccr.toByte := by
  obtain ⟨hstate, -, -, hwrote⟩ := State.takeException_cases h hm
  obtain ⟨hram0, hram1, hram2, hram3, hram4⟩ := hram
  have hnodup := frame_nodup s ret
  rw [frame_eq] at hnodup
  have stacked (a : Word) (v : Byte) (hav : (a, v) ∈ _) (hk : s.kindAt a = .ram) : t.byteAt a = v :=
    (hwrote a).trans (State.afterStores_of_mem hnodup hav hk)
  exact ⟨congrArg State.sp hstate, (congrArg State.params hstate :), stacked _ _ (by simp) hram0,
    stacked _ _ (by simp) hram1, stacked _ _ (by simp) hram2, stacked _ _ (by simp) hram3,
    stacked _ _ (by simp) hram4⟩

/-- Where SP and the five bytes an exception stacked are kept, RTI returns to the address it was given. -/
theorem execRti_after_exception {s t u : State} {ret vec : Word} (h : s.takeException ret vec = .ok t)
    (hm : s.mem.wf = true) (hram : frameInRam s) (hframe : sameFrame s t u) (husp : u.sp = t.sp)
    (hup : u.params = t.params) :
    execRti u = .next { u with a := s.a, x := s.x, ccr := s.ccr, sp := s.sp, pc := ret } := by
  obtain ⟨hsp, hp, htlo, hthi, htx, hta, htflags⟩ := State.takeException_stacks h hm hram
  obtain ⟨hlo, hhi, hx, ha, hflags⟩ := hframe
  obtain ⟨hram0, hram1, hram2, hram3, hram4⟩ := hram
  have hsp1 : u.sp + 1 = s.sp - 4 := by bv_omega
  have hsp2 : u.sp + 2 = s.sp - 3 := by bv_omega
  have hsp3 : u.sp + 3 = s.sp - 2 := by bv_omega
  have hsp4 : u.sp + 4 = s.sp - 1 := by bv_omega
  have hsp5 : u.sp + 5 = s.sp := by bv_omega
  have hrti := execRti_of_ram (s := u) (by
    simp only [hsp1, hsp2, hsp3, hsp4, hsp5, State.kindAt_congr (hup.trans hp), List.forall_mem_cons]
    exact ⟨hram4, hram3, hram2, hram1, hram0, List.forall_mem_nil _⟩)
  rwa [hsp1, hsp2, hsp3, hsp4, hsp5, hlo, hhi, hx, ha, hflags, htlo, hthi, htx, hta, htflags, Ccr.ofByte_toByte,
    wordOf_hiByte_loByte] at hrti

/-- Settles O60: SWI and the entry of an interrupt take an exception, the one with the address after it, the other
with PC. -/
theorem rtiUndoesEntry : Obligations.RtiUndoesEntry := by
  intro s t u hm hram hframe husp hup
  refine ⟨fun h => ?_, fun vec h => ?_⟩
  · have hswi : s.takeException (nextPc s 1) vecSwi = .ok t :=
      outcome_eq_next.1 ((execSwi_eq s).symm.trans h)
    exact execRti_after_exception hswi hm hram hframe husp hup
  · exact execRti_after_exception (s := { s with runState := .running }) h hm hram hframe husp hup

/-! ## A step that executes -/

/-- Bytes that decode to an instruction and nothing more, read at PC one after the other, are the instruction that
is fetched. -/
theorem State.fetch_of_decode {s : State} {i : Instr} {bytes : List Byte} (h : decode bytes = .ok (i, []))
    (hbytes : ∀ k b, bytes[k]? = some b → (s.afterFetch k).fetchByte (s.pc + BitVec.ofNat 16 k) = .ok b) :
    s.fetch = .ok (.instr i bytes.length) := by
  refine readInstr_of_agrees (fun k b hk => hbytes k b ?_) (readInstr_of_decode h)
  unfold byteOf at hk
  split at hk
  · next hget => rw [hget, Except.ok.inj hk]
  · cases hk

theorem State.fetchAccesses_eq_reads (s : State) (k : Nat) :
    s.fetchAccesses k = reads ((List.range k).map fun j => s.pc + BitVec.ofNat 16 j) := by
  rw [reads, List.map_map]
  rfl

/-- A fetch elsewhere than from I/O registers leaves the devices alone. -/
theorem State.afterFetch_of_memory {s : State} {n : Nat}
    (h : ∀ k, k < n → ∀ id, s.kindAt (s.pc + BitVec.ofNat 16 k) ≠ .device id) : (s.afterFetch n).io = s.io :=
  State.ioAfter_of_memory (List.forall_mem_map.2 fun k hk => h k (List.mem_range.1 hk))

/-- Settles O9: the CLI delay, which the boundary clears, plays no part in the fetch. -/
theorem stepRunsDecodedInstruction : Obligations.StepRunsDecodedInstruction := by
  intro s i bytes hx hdecode hbytes
  have hfetch : s.tick.clearDelay.fetch = .ok (.instr i bytes.length) := State.fetch_of_decode hdecode hbytes
  refine ⟨?_, fun k => ?_, fun hmemory => State.afterFetch_of_memory (s := s.tick) hmemory⟩
  · rw [step_of_executes hx, execute_of_fetch hfetch]
    rfl
  · rw [State.afterFetch_io, State.fetchAccesses_eq_reads]
    rfl

end Sys2Proof.Machine

/-! The proofs about 70_reset_and_hazards.md: a reset taken in a run (O15) and the state right after reset (O16,
O17). -/

namespace Sys2Proof.Machine

open Sys2Proof Sys2Proof.Claims

/-- Settles O15: the boundary is the reset entry, after the count of steps has advanced. -/
theorem resetEntry : Obligations.ResetEntry := by
  intro s hreset hv hv'
  obtain ⟨t, ht⟩ := State.resetEntry_of_readable (s := s.tick) hv hv'
  obtain ⟨hpc, hstate⟩ := State.resetEntry_cases ht
  have hstep : step s = outcome s.tick.resetEntry := by
    simp only [step, State.boundaryEvent_eq_reset.2 hreset]
  exact ⟨t, hstep.trans (outcome_eq_next.2 ht), hpc, hstate⟩

/-- With no region in MEMMAP every address is RAM (92_eei_decisions.md D1). -/
theorem State.allRam_of_memmap_nil {s : State} (h : s.params.memmap = []) : s.AllRam := by
  intro a
  simp [State.kindAt, h]

/-- Settles O16: PC is what the empty memory, all RAM, holds at the reset vector; the rest is written in the
state. -/
theorem resetStateValues : Obligations.ResetStateValues := by
  have hram : State.reset.AllRam := State.allRam_of_memmap_nil rfl
  have hpc : State.reset.loadWord 0xFFFE = .ok State.reset.pc := State.loadWord_ram (hram _) (hram _)
  exact ⟨rfl, rfl, rfl, rfl, rfl, hpc, rfl, rfl, rfl⟩

/-- Settles O17: memory is canonical and the machine is RUNNING. -/
theorem resetSatisfiesInv : Obligations.ResetSatisfiesInv := ⟨State.reset_mem_wf, .inl rfl⟩

end Sys2Proof.Machine

/-! The proof about the representation of the memory of 20_memory.md (O5). -/

namespace Sys2Proof.Machine

open Sys2Proof

/-- Memories with the same first entry that read alike have tails that read alike. -/
theorem Memory.read_tail {rest rest' : Memory} {k : Nat} {v : Byte} (hr : Memory.wfFrom (k + 1) rest = true)
    (hr' : Memory.wfFrom (k + 1) rest' = true)
    (h : ∀ a, Memory.read ((k, v) :: rest) a = Memory.read ((k, v) :: rest') a) (a : Nat) :
    rest.read a = rest'.read a := by
  by_cases ha : a < k + 1
  · rw [Memory.read_below hr ha, Memory.read_below hr' ha]
  · have hne : k ≠ a := by omega
    simpa only [Memory.read, if_neg hne] using h a

/-- A listed address below all those of another memory reads differently there. -/
theorem Memory.read_ne_of_lt {rest n : Memory} {k low : Nat} {v : Byte} (hv : v ≠ Memory.unlisted)
    (hn : n.wfFrom low = true) (hk : k < low) : Memory.read ((k, v) :: rest) k ≠ n.read k := by
  rw [Memory.read_below hn hk, Memory.read, if_pos rfl]
  exact hv

theorem Memory.wfFrom_cons {rest : Memory} {low k : Nat} {v : Byte} :
    Memory.wfFrom low ((k, v) :: rest) = true ↔
      low ≤ k ∧ k < 65536 ∧ v ≠ Memory.unlisted ∧ rest.wfFrom (k + 1) = true := by
  simp only [Memory.wfFrom, Bool.and_eq_true, decide_eq_true_eq, and_assoc]

/-- The lowest address that either lists must be listed in both, with one byte; then their tails. -/
theorem Memory.eq_of_read_eq {m n : Memory} {low : Nat} (hm : m.wfFrom low = true) (hn : n.wfFrom low = true)
    (h : ∀ a, m.read a = n.read a) : m = n := by
  induction m generalizing n low with
  | nil =>
    cases n with
    | nil => rfl
    | cons q n' =>
      obtain ⟨-, -, hw, -⟩ := Memory.wfFrom_cons.1 hn
      exact absurd (h q.1).symm (Memory.read_ne_of_lt (n := []) hw rfl q.1.lt_succ_self)
  | cons p m' ih =>
    obtain ⟨-, hk, hv, hm'⟩ := Memory.wfFrom_cons.1 hm
    cases n with
    | nil => exact absurd (h p.1) (Memory.read_ne_of_lt hv (n := []) rfl p.1.lt_succ_self)
    | cons q n' =>
      obtain ⟨-, hl, hw, hn'⟩ := Memory.wfFrom_cons.1 hn
      rcases lt_trichotomy p.1 q.1 with hlt | heq | hlt
      · exact absurd (h p.1) (Memory.read_ne_of_lt hv (Memory.wfFrom_cons.2 ⟨le_rfl, hl, hw, hn'⟩) hlt)
      · obtain ⟨k, v⟩ := p
        obtain ⟨_, w⟩ := q
        obtain rfl : k = _ := heq
        obtain rfl : v = w := by simpa only [Memory.read, if_true] using h k
        rw [ih hm' hn' (Memory.read_tail hm' hn' h)]
      · exact absurd (h q.1).symm (Memory.read_ne_of_lt hw (Memory.wfFrom_cons.2 ⟨le_rfl, hk, hv, hm'⟩) hlt)

/-- Settles O5, by `Memory.eq_of_read_eq` from address 0. -/
theorem canonicalMemoryIsUnique : Obligations.CanonicalMemoryIsUnique :=
  fun _ _ hm hn h => Memory.eq_of_read_eq hm hn h

end Sys2Proof.Machine
